-- ==== Sys2Proof/Word.lean ====
section
/-!
DEFINITION. The three bit-vector types of the core (00_scope.md R12, R13): a byte, a 32-bit word of MEM or of the
MMIO block, and a 16-byte block as its value `val(B)`, byte 0 most significant.
-/

namespace Sys2Proof

/-- A byte, 0..255 (R12). -/
abbrev Byte := BitVec 8

/-- A 32-bit word: header word, operand word or MMIO register (R103, R55). -/
abbrev Word := BitVec 32

/-- A block, held as `val(B)`: bit `j` has weight `2^j`, byte 0 is bits 127:120 (R13). -/
abbrev Block := BitVec 128

end Sys2Proof
end

