-- ==== Sys2Proof/Syntax.lean ====
section
/-!
DEFINITION. The commands of the core (30_encoding.md R148): one constructor of `Instr` per row of the opcode map,
with its operands in the order of R154 (rd, rs, mode or flag, then the operand words), the pseudo-instructions of R155
as lists of them, and a line of assembly (R154).
-/

namespace Sys2Proof

/-- A block register, BR0 to BR3 (R32, R143). -/
inductive BReg where
  | b0
  | b1
  | b2
  | b3
deriving DecidableEq, Repr

/-- KIMPORT's MODE field (R150). -/
inductive KeyMode where
  | cmac
  | pmac
  | siv
  | pmacsiv
deriving DecidableEq, Repr

/-- The direction of a STREAM, STINIT's FLAG field (R151) and the register STDIR (R41). -/
inductive Dir where
  | enc
  | dec
deriving DecidableEq, Repr

/-- FLAG of STSEAL and STOPEN, MJS's `isLast` (R151). -/
inductive Chunk where
  | more
  | last
deriving DecidableEq, Repr

/-- A decoded command (R148). -/
inductive Instr where
  | endc
  | nop
  | bclr (rd : BReg)
  | bmov (rd rs : BReg)
  | bxor (rd rs : BReg)
  | bdbl (rd rs : BReg)
  | bld (rd : BReg) (addr : Word)
  | bst (rs : BReg) (addr : Word)
  | kimport (mode : KeyMode) (addr len : Word)
  | kclear
  | mreset
  | mupdate (addr len : Word)
  | mfinish (rd : BReg)
  | s2vinit
  | s2vad (addr len : Word)
  | s2vfin (rd : BReg) (addr len : Word)
  | ivq (rd rs : BReg)
  | ctrx (rs : BReg) (src len dst : Word)
  | sivseal (desc src len dst : Word)
  | sivopen (desc src len dst : Word)
  | aeadseal (desc nonce nlen src len dst : Word)
  | aeadopen (desc nonce nlen src len dst : Word)
  | stinit (dir : Dir) (start : Word)
  | stseal (chunk : Chunk) (ad adlen src len dst : Word)
  | stopen (chunk : Chunk) (ad adlen src len dst : Word)
deriving DecidableEq, Repr

/-- The assigned opcodes (R148), by their mnemonics. -/
inductive Op where
  | endc
  | nop
  | bclr
  | bmov
  | bxor
  | bdbl
  | bld
  | bst
  | kimport
  | kclear
  | mreset
  | mupdate
  | mfinish
  | s2vinit
  | s2vad
  | s2vfin
  | ivq
  | ctrx
  | sivseal
  | sivopen
  | aeadseal
  | aeadopen
  | stinit
  | stseal
  | stopen
deriving DecidableEq, Repr

/-- The header classes (R145): which header fields an opcode uses. -/
inductive HeaderClass where
  | n
  | d
  | s
  | ds
  | m
  | f
deriving DecidableEq, Repr

/-- The pseudo-instructions of the assembler; the core never sees one (R155). -/
inductive Pseudo where
  | halt
  | mac (bd : BReg) (addr len : Word)
  | s2v1 (bd : BReg) (addr len : Word)
deriving DecidableEq, Repr

/-- The commands a pseudo-instruction stands for (R155). -/
def Pseudo.expand : Pseudo → List Instr
  | .halt => [.endc]
  | .mac bd addr len => [.mreset, .mupdate addr len, .mfinish bd]
  | .s2v1 bd addr len => [.s2vinit, .s2vfin bd addr len]

/-- A line of assembly, its labels already replaced by their addresses: a command, a pseudo-instruction, or one of the
directives (R154). -/
inductive AsmLine where
  | cmd (i : Instr)
  | pseudo (p : Pseudo)
  | org (addr : Nat)
  | word (v : Word)
  | bytes (bs : List Byte)
  | desc (pairs : List (Word × Word))
deriving DecidableEq, Repr

end Sys2Proof
end

