-- ==== Sys2Proof/Decode.lean ====
section
/-!
DEFINITION. The decoder, total on any bytes and rejecting by name (30_encoding.md R145, R146, R152), and after it the
encoder (R141, R148, R154).  Words are big-endian (R103).
-/

namespace Sys2Proof

/-! ### The opcode map (R148) -/

/-- Every assigned opcode, in the order of R148. -/
def Op.all : List Op :=
  [.endc, .nop, .bclr, .bmov, .bxor, .bdbl, .bld, .bst, .kimport, .kclear, .mreset, .mupdate, .mfinish] ++
  [.s2vinit, .s2vad, .s2vfin, .ivq, .ctrx, .sivseal, .sivopen, .aeadseal, .aeadopen, .stinit, .stseal, .stopen]

/-- The opcode of a command. -/
def Instr.op : Instr → Op
  | .endc => .endc
  | .nop => .nop
  | .bclr _ => .bclr
  | .bmov _ _ => .bmov
  | .bxor _ _ => .bxor
  | .bdbl _ _ => .bdbl
  | .bld _ _ => .bld
  | .bst _ _ => .bst
  | .kimport _ _ _ => .kimport
  | .kclear => .kclear
  | .mreset => .mreset
  | .mupdate _ _ => .mupdate
  | .mfinish _ => .mfinish
  | .s2vinit => .s2vinit
  | .s2vad _ _ => .s2vad
  | .s2vfin _ _ _ => .s2vfin
  | .ivq _ _ => .ivq
  | .ctrx _ _ _ _ => .ctrx
  | .sivseal _ _ _ _ => .sivseal
  | .sivopen _ _ _ _ => .sivopen
  | .aeadseal _ _ _ _ _ _ => .aeadseal
  | .aeadopen _ _ _ _ _ _ => .aeadopen
  | .stinit _ _ => .stinit
  | .stseal _ _ _ _ _ _ => .stseal
  | .stopen _ _ _ _ _ _ => .stopen

/-- The operand words W1..WK of a command, in order (R142, R148). -/
def Instr.operands : Instr → List Word
  | .endc => []
  | .nop => []
  | .bclr _ => []
  | .bmov _ _ => []
  | .bxor _ _ => []
  | .bdbl _ _ => []
  | .bld _ addr => [addr]
  | .bst _ addr => [addr]
  | .kimport _ addr len => [addr, len]
  | .kclear => []
  | .mreset => []
  | .mupdate addr len => [addr, len]
  | .mfinish _ => []
  | .s2vinit => []
  | .s2vad addr len => [addr, len]
  | .s2vfin _ addr len => [addr, len]
  | .ivq _ _ => []
  | .ctrx _ src len dst => [src, len, dst]
  | .sivseal desc src len dst => [desc, src, len, dst]
  | .sivopen desc src len dst => [desc, src, len, dst]
  | .aeadseal desc nonce nlen src len dst => [desc, nonce, nlen, src, len, dst]
  | .aeadopen desc nonce nlen src len dst => [desc, nonce, nlen, src, len, dst]
  | .stinit _ start => [start]
  | .stseal _ ad adlen src len dst => [ad, adlen, src, len, dst]
  | .stopen _ ad adlen src len dst => [ad, adlen, src, len, dst]

/-- The opcode byte OPC of a header, bits 31:24 (R148). -/
def Op.code : Op → Byte
  | .endc => 0x01#8
  | .nop => 0x02#8
  | .bclr => 0x10#8
  | .bmov => 0x11#8
  | .bxor => 0x12#8
  | .bdbl => 0x13#8
  | .bld => 0x14#8
  | .bst => 0x15#8
  | .kimport => 0x20#8
  | .kclear => 0x21#8
  | .mreset => 0x30#8
  | .mupdate => 0x31#8
  | .mfinish => 0x32#8
  | .s2vinit => 0x40#8
  | .s2vad => 0x41#8
  | .s2vfin => 0x42#8
  | .ivq => 0x43#8
  | .ctrx => 0x44#8
  | .sivseal => 0x45#8
  | .sivopen => 0x46#8
  | .aeadseal => 0x50#8
  | .aeadopen => 0x51#8
  | .stinit => 0x60#8
  | .stseal => 0x61#8
  | .stopen => 0x62#8

/-- The header class of an opcode, the letters of its format (R148). -/
def Op.cls : Op → HeaderClass
  | .endc => .n
  | .nop => .n
  | .bclr => .d
  | .bmov => .ds
  | .bxor => .ds
  | .bdbl => .ds
  | .bld => .d
  | .bst => .s
  | .kimport => .m
  | .kclear => .n
  | .mreset => .n
  | .mupdate => .n
  | .mfinish => .d
  | .s2vinit => .n
  | .s2vad => .n
  | .s2vfin => .d
  | .ivq => .ds
  | .ctrx => .s
  | .sivseal => .n
  | .sivopen => .n
  | .aeadseal => .n
  | .aeadopen => .n
  | .stinit => .f
  | .stseal => .f
  | .stopen => .f

/-- K, the number of operand words, the digit of an opcode's format (R140, R148). -/
def Op.k : Op → Nat
  | .endc => 0
  | .nop => 0
  | .bclr => 0
  | .bmov => 0
  | .bxor => 0
  | .bdbl => 0
  | .bld => 1
  | .bst => 1
  | .kimport => 2
  | .kclear => 0
  | .mreset => 0
  | .mupdate => 2
  | .mfinish => 0
  | .s2vinit => 0
  | .s2vad => 2
  | .s2vfin => 2
  | .ivq => 0
  | .ctrx => 3
  | .sivseal => 4
  | .sivopen => 4
  | .aeadseal => 6
  | .aeadopen => 6
  | .stinit => 1
  | .stseal => 5
  | .stopen => 5

/-- The length of an opcode's command in bytes, `4·(1+K)` (R140). -/
def Op.bytes (o : Op) : Nat := 4 * (1 + o.k)

/-- The opcode with a given code, if the code is assigned (R148, R149). -/
def Op.ofCode (b : Byte) : Option Op := Op.all.find? fun o => o.code == b

/-! ### The header fields (R141) -/

/-- OPC, bits 31:24. -/
def Header.opc (h : Word) : Byte := h.extractLsb' 24 8
/-- RD, bits 23:20. -/
def Header.rd (h : Word) : BitVec 4 := h.extractLsb' 20 4
/-- RS, bits 19:16. -/
def Header.rs (h : Word) : BitVec 4 := h.extractLsb' 16 4
/-- FL, bits 15:8. -/
def Header.fl (h : Word) : Byte := h.extractLsb' 8 8
/-- Z, bits 7:0. -/
def Header.z (h : Word) : Byte := h.extractLsb' 0 8

/-! ### Words as bytes (R103) -/

/-- A word's four bytes, the most significant first (R103). -/
def wordBytes (w : Word) : List Byte :=
  [w.extractLsb' 24 8, w.extractLsb' 16 8, w.extractLsb' 8 8, w.extractLsb' 0 8]

/-- The word whose bytes are these, the most significant first; `beword` of R15. -/
def beword (b0 b1 b2 b3 : Byte) : Word := b0 ++ b1 ++ b2 ++ b3

/-- The next word of a byte string, and the rest of the string. -/
def takeWord : List Byte → Option (Word × List Byte)
  | b0 :: b1 :: b2 :: b3 :: rest => some (beword b0 b1 b2 b3, rest)
  | _ => none

/-- The next `n` words of a byte string, and the rest of the string. -/
def takeWords : Nat → List Byte → Option (List Word × List Byte)
  | 0, bs => some ([], bs)
  | n + 1, bs =>
    match takeWord bs with
    | none => none
    | some (w, rest) =>
      match takeWords n rest with
      | none => none
      | some (ws, rest') => some (w :: ws, rest')

/-! ### The field values (R143, R150, R151) -/

/-- The block register a two-bit field names (R143). -/
def BReg.ofBits (b : BitVec 2) : BReg :=
  if b = 0#2 then .b0 else if b = 1#2 then .b1 else if b = 2#2 then .b2 else .b3

/-- A block register's two-bit field (R143). -/
def BReg.bits : BReg → BitVec 2
  | .b0 => 0#2
  | .b1 => 1#2
  | .b2 => 2#2
  | .b3 => 3#2

/-- The MODE a two-bit field names (R150). -/
def KeyMode.ofBits (b : BitVec 2) : KeyMode :=
  if b = 0#2 then .cmac else if b = 1#2 then .pmac else if b = 2#2 then .siv else .pmacsiv

/-- A MODE's two-bit field (R150). -/
def KeyMode.bits : KeyMode → BitVec 2
  | .cmac => 0#2
  | .pmac => 1#2
  | .siv => 2#2
  | .pmacsiv => 3#2

/-- The direction a FLAG bit names (R151). -/
def Dir.ofBits (b : BitVec 1) : Dir := if b = 0#1 then .enc else .dec

/-- A direction's FLAG bit (R151). -/
def Dir.bits : Dir → BitVec 1
  | .enc => 0#1
  | .dec => 1#1

/-- The `last` mark a FLAG bit names (R151). -/
def Chunk.ofBits (b : BitVec 1) : Chunk := if b = 0#1 then .more else .last

/-- A `last` mark's FLAG bit (R151). -/
def Chunk.bits : Chunk → BitVec 1
  | .more => 0#1
  | .last => 1#1

/-! ### Decoding (R145, R146) -/

/-- The header bits a class fixes (R145). -/
def HeaderClass.mask : HeaderClass → Word
  | .n => 0xFFFFFFFF#32
  | .d => 0xFFCFFFFF#32
  | .s => 0xFFFCFFFF#32
  | .ds => 0xFFCCFFFF#32
  | .m => 0xFFFFFCFF#32
  | .f => 0xFFFFFEFF#32

/-- The value of an opcode's fixed header bits, OPC in bits 31:24 and zeros (R145). -/
def Op.fixed (o : Op) : Word := o.code ++ 0#24

/-- The variable fields of a header (R146). -/
structure Fields where
  rd : BReg
  rs : BReg
  mode : KeyMode
  flag : BitVec 1
deriving DecidableEq, Repr

/-- The variable fields that a header holds (R146). -/
def Fields.ofHeader (h : Word) : Fields where
  rd := BReg.ofBits (h.extractLsb' 20 2)
  rs := BReg.ofBits (h.extractLsb' 16 2)
  mode := KeyMode.ofBits (h.extractLsb' 8 2)
  flag := h.extractLsb' 8 1

/-- `decode(H)` of R146: the opcode and the variable fields, or nothing where the header is ILLEGAL. -/
def decodeHeader (h : Word) : Option (Op × Fields) :=
  match Op.ofCode (Header.opc h) with
  | none => none
  | some o => if h &&& o.cls.mask = o.fixed then some (o, Fields.ofHeader h) else none

/-- The command with this opcode, these fields and these operand words (R148). -/
def buildInstr (o : Op) (f : Fields) (ws : List Word) : Option Instr :=
  match o, ws with
  | .endc, [] => some .endc
  | .nop, [] => some .nop
  | .bclr, [] => some (.bclr f.rd)
  | .bmov, [] => some (.bmov f.rd f.rs)
  | .bxor, [] => some (.bxor f.rd f.rs)
  | .bdbl, [] => some (.bdbl f.rd f.rs)
  | .bld, [addr] => some (.bld f.rd addr)
  | .bst, [addr] => some (.bst f.rs addr)
  | .kimport, [addr, len] => some (.kimport f.mode addr len)
  | .kclear, [] => some .kclear
  | .mreset, [] => some .mreset
  | .mupdate, [addr, len] => some (.mupdate addr len)
  | .mfinish, [] => some (.mfinish f.rd)
  | .s2vinit, [] => some .s2vinit
  | .s2vad, [addr, len] => some (.s2vad addr len)
  | .s2vfin, [addr, len] => some (.s2vfin f.rd addr len)
  | .ivq, [] => some (.ivq f.rd f.rs)
  | .ctrx, [src, len, dst] => some (.ctrx f.rs src len dst)
  | .sivseal, [desc, src, len, dst] => some (.sivseal desc src len dst)
  | .sivopen, [desc, src, len, dst] => some (.sivopen desc src len dst)
  | .aeadseal, [desc, nonce, nlen, src, len, dst] => some (.aeadseal desc nonce nlen src len dst)
  | .aeadopen, [desc, nonce, nlen, src, len, dst] => some (.aeadopen desc nonce nlen src len dst)
  | .stinit, [start] => some (.stinit (Dir.ofBits f.flag) start)
  | .stseal, [ad, adlen, src, len, dst] => some (.stseal (Chunk.ofBits f.flag) ad adlen src len dst)
  | .stopen, [ad, adlen, src, len, dst] => some (.stopen (Chunk.ofBits f.flag) ad adlen src len dst)
  | _, _ => none

/-- Why a byte string is no command: fewer than four bytes for the header (FETCH, R181), a header that is not well
formed (ILLEGAL, R144), or fewer bytes than the opcode's operand words (FETCH, R181). -/
inductive DecodeError where
  | noHeader
  | illegal
  | noOperands
deriving DecidableEq, Repr

/-- The command at the head of a byte string, and the rest of the string (R146, R152). -/
def decode (bs : List Byte) : Except DecodeError (Instr × List Byte) :=
  match takeWord bs with
  | none => .error .noHeader
  | some (h, rest) =>
    match decodeHeader h with
    | none => .error .illegal
    | some (o, f) =>
      match takeWords o.k rest with
      | none => .error .noOperands
      | some (ws, rest') =>
        match buildInstr o f ws with
        | none => .error .illegal
        | some i => .ok (i, rest')

/-! ### Encoding (R141, R148) -/

/-- A header word from its five fields (R141). -/
def headerWord (opc : Byte) (rd rs : BitVec 4) (fl : Byte) : Word := opc ++ rd ++ rs ++ fl ++ 0#8

/-- A register's field, with bits 3:2 zero (R143). -/
def BReg.field (r : BReg) : BitVec 4 := 0#2 ++ r.bits

/-- The RD field of a command (R148). -/
def Instr.rdField : Instr → BitVec 4
  | .bclr rd => rd.field
  | .bmov rd _ => rd.field
  | .bxor rd _ => rd.field
  | .bdbl rd _ => rd.field
  | .bld rd _ => rd.field
  | .mfinish rd => rd.field
  | .s2vfin rd _ _ => rd.field
  | .ivq rd _ => rd.field
  | _ => 0#4

/-- The RS field of a command (R148). -/
def Instr.rsField : Instr → BitVec 4
  | .bmov _ rs => rs.field
  | .bxor _ rs => rs.field
  | .bdbl _ rs => rs.field
  | .bst rs _ => rs.field
  | .ivq _ rs => rs.field
  | .ctrx rs _ _ _ => rs.field
  | _ => 0#4

/-- The FL field of a command (R150, R151). -/
def Instr.flField : Instr → Byte
  | .kimport mode _ _ => 0#6 ++ mode.bits
  | .stinit dir _ => 0#7 ++ dir.bits
  | .stseal chunk _ _ _ _ _ => 0#7 ++ chunk.bits
  | .stopen chunk _ _ _ _ _ => 0#7 ++ chunk.bits
  | _ => 0#8

/-- The header word of a command (R141, R148). -/
def Instr.header (i : Instr) : Word := headerWord i.op.code i.rdField i.rsField i.flField

/-- The words of a command: its header, then its operand words (R140). -/
def Instr.words (i : Instr) : List Word := i.header :: i.operands

/-- The bytes of a command in MEM, each word big-endian (R103, R140). -/
def encode (i : Instr) : List Byte := i.words.flatMap wordBytes

/-! ### Assembly (R154, R155) -/

/-- The bytes a line of assembly emits; `.desc` emits the count, then the pairs (R154, R117). -/
def AsmLine.emit : AsmLine → List Byte
  | .cmd i => encode i
  | .pseudo p => p.expand.flatMap encode
  | .org _ => []
  | .word v => wordBytes v
  | .bytes bs => bs
  | .desc pairs => wordBytes (BitVec.ofNat 32 pairs.length) ++ pairs.flatMap fun p => wordBytes p.1 ++ wordBytes p.2

/-- The emission address after a line: `.org` sets it, every other line moves it past its bytes (R154). -/
def AsmLine.next (a : Nat) : AsmLine → Nat
  | .org addr => addr
  | l => a + l.emit.length

/-- A source assembled from an emission address on: the byte strings and where each stands (R154). -/
def assemble : Nat → List AsmLine → List (Nat × List Byte)
  | _, [] => []
  | a, l :: ls => (a, l.emit) :: assemble (l.next a) ls

/-! ### The opcode table's numbering of bits -/

/-- The most words a command has (R140). -/
def maxWords : Nat := 7

/-- The bytes, as MEM holds them, of the command whose first `nbits` bits are `w` in the table's numbering (bit 0 the
least significant bit of the first word, later words' bits counting on), every later bit zero. -/
def tableBytes (nbits w : Nat) : List Byte :=
  (List.range maxWords).flatMap fun j => wordBytes (BitVec.ofNat 32 (w % 2 ^ nbits / 2 ^ (32 * j)))

/-- The command the decoder reads from a row of the opcode table. -/
def decodeTableWord (nbits w : Nat) : Option Instr :=
  match decode (tableBytes nbits w) with
  | .ok (i, _) => some i
  | .error _ => none

end Sys2Proof
end

