-- ==== Sys2Proof/Machine/Field.lean ====
section
/-!
DEFINITION. Blocks and byte strings: the byte view of a block (00_scope.md R12, R13), the doubler and its inverse
(41_block_unit.md R200, R203), the counter-block derivation (45_s2v_siv.md R347), padding (R342, R343), and the
number functions of R15.
-/

namespace Sys2Proof.Machine

/-- A byte string of any length (R12). -/
abbrev Bytes := List Byte

/-! ### The byte view of a block (R12, R13) -/

/-- B[i], byte 0 the most significant (R13). -/
def blockByte (b : Block) (i : Nat) : Byte := b.extractLsb' (8 * (15 - i)) 8

/-- A block as its 16 bytes in index order (R12). -/
def blockBytes (b : Block) : Bytes := (List.range 16).map (blockByte b)

/-- The block whose first bytes, of the `k` least significant ones, are these; the missing ones are zero. -/
def blockOfLow : Nat → Bytes → Block
  | 0, _ => 0#128
  | _ + 1, [] => 0#128
  | k + 1, b :: bs => (b.setWidth 128 <<< (8 * k)) ||| blockOfLow k bs

/-- The block with these bytes, byte 0 first; a shorter string is completed with zero bytes (R12, R13). -/
def blockOf (bs : Bytes) : Block := blockOfLow 16 bs

/-- `⊕` on byte strings of equal length (R12). -/
def xorBytes (x y : Bytes) : Bytes := List.zipWith (· ^^^ ·) x y

/-- The block that is these bytes from index `pos` on, and zero elsewhere. -/
def placeAt (pos : Nat) (bs : Bytes) : Block := blockOf (List.replicate pos 0#8 ++ bs)

/-- A block with these bytes put in place of its own from index `pos` on. -/
def overlay (b : Block) (pos : Nat) (bs : Bytes) : Block :=
  blockOf ((blockBytes b).take pos ++ bs ++ (blockBytes b).drop (pos + bs.length))

/-! ### The doubler (R200, R203) -/

/-- `dbl`: a left shift by one, and 0x87 where bit 127 was 1 (R200). -/
def dbl (b : Block) : Block := (b <<< 1) ^^^ (if b.getLsbD 127 then 0x87#128 else 0#128)

/-- `halve`, the inverse of `dbl` (R203). -/
def halve (b : Block) : Block :=
  (b >>> 1) ^^^ (if b.getLsbD 0 then 0x80000000000000000000000000000043#128 else 0#128)

/-- `dbl^n` (R202 point 4). -/
def dblTimes : Nat → Block → Block
  | 0, b => b
  | n + 1, b => dbl (dblTimes n b)

/-! ### Derived blocks and strings (R342, R343, R347) -/

/-- `ivq`: bits 63 and 31 of the synthetic IV cleared (R347). -/
def ivq (v : Block) : Block := v &&& ~~~0x8000000080000000#128

/-- `X || 0x80 || 0...`, a block, for a string of fewer than 16 bytes (R342). -/
def padBlock (x : Bytes) : Block := blockOf (x ++ [0x80#8])

/-- `xorend`: D into the last 16 bytes of a string of at least 16 (R343). -/
def xorend (x : Bytes) (d : Block) : Bytes :=
  x.take (x.length - 16) ++ xorBytes (x.drop (x.length - 16)) (blockBytes d)

/-- The number of trailing zero bits of a positive number, at most the first argument (R15). -/
def ntzUpTo : Nat → Nat → Nat
  | 0, _ => 0
  | fuel + 1, i => if i % 2 = 0 then 1 + ntzUpTo fuel (i / 2) else 0

/-- `ntz(i)` for `i ≥ 1` (R15). -/
def ntz (i : Nat) : Nat := ntzUpTo i i

/-- `BE32`: a 32-bit number as four bytes, the most significant first (R15). -/
def be32 (w : Word) : Bytes :=
  [w.extractLsb' 24 8, w.extractLsb' 16 8, w.extractLsb' 8 8, w.extractLsb' 0 8]

end Sys2Proof.Machine
end

