-- ==== Sys2Proof/Config.lean ====
section
/-!
DEFINITION. What one implementation fixes (the parameters of 00_scope.md R10) and the free values of the model.
A parameter to which R10 gives a value is a plain definition; a parameter that R10 leaves OPEN, and every value the
spec leaves unspecified, is an opaque constant with no body, so that no proof can see what it is.
-/

namespace Sys2Proof

/-! ### Parameters with a value (R10) -/

/-- P_MEM_SIZE: the bytes of MEM (R10, R100). -/
def Config.memSize : Nat := 65536

/-- P_PMAC_LTAB: the entries of the PMAC mask table (R10, R261). -/
def Config.pmacLtab : Nat := 31

/-- P_MAX_AD: the most AD strings before the final S2V string (R10). -/
def Config.maxAd : Nat := 126

/-- P_PREFIX_LEN: the bytes of the STREAM nonce prefix (R10, R421). -/
def Config.prefixLen : Nat := 8

/-- P_CTR_BITS: the low-order counter bits that CTR mode increments (R10, R348). -/
def Config.ctrBits : Nat := 128

/-- P_CORE_ID: the value of the ID register (R10, R44). -/
def Config.coreId : Word := 0x4D534331#32

/-! ### OPEN parameters (R10) -/

/-- The block cipher BC, OPEN: for each key a bijection on blocks, and nothing else is known of it (R10, R33). -/
opaque Config.cipher : List Byte → Equiv.Perm Block

/-- BC(key, block) (R10, R33). -/
def Config.bc (key : List Byte) (x : Block) : Block := Config.cipher key x

/-- One key length the provider accepts, less one: P_BC_KEYLEN is a non-empty subset of 1..32 (R10). -/
opaque Config.keyLenOne : Fin 32

/-- Which of the key lengths 1..32 (each less one) the provider accepts beside `keyLenOne` (R10). -/
opaque Config.keyLenAlso : Fin 32 → Bool

/-- `n ∈ P_BC_KEYLEN`: OPEN, a non-empty subset of 1..32 (R10). -/
def Config.acceptsKeyLen (n : Nat) : Bool :=
  if h : n - 1 < 32 then
    decide (1 ≤ n) && (decide (n - 1 = Config.keyLenOne.val) || Config.keyLenAlso ⟨n - 1, h⟩)
  else false

/-- P_MEM_BASE: where MEM appears in the host's address map, OPEN and invisible to the core (R10, R111). -/
opaque Config.memBase : Nat

/-- P_MMIO_BASE: where the MMIO block appears in the host's address map, OPEN and invisible to the core (R10, R111). -/
opaque Config.mmioBase : Nat

/-- P_HOST_ORDERED: the host bus keeps host MEM writes ordered before a later GO write, OPEN (R10, R113). -/
opaque Config.hostOrdered : Bool

/-! ### The provider's answers (R33, U5, U6) -/

/-- The provider's answer to one request: its result, `fail`, or no answer at all (R33, R188). -/
inductive Answer where
  | ok
  | fail
  | silent
deriving DecidableEq, Repr, Inhabited

/-- The answer to a request where the state's own list of forthcoming answers has ended: a free draw, new for each
request number and each number of draws before it (R33, U5, U6). -/
opaque Config.freeAnswer : Nat → Nat → Answer

/-! ### Free values (93_implementation_defined.md part 1) -/

/-- The byte that MEM holds at an address after the hard reset with this number (R119, U7). -/
opaque Config.powerOnByte : Nat → Nat → Byte

/-- A block left unspecified by the draw with this number; the second number says which block (R464 point 3, U2). -/
opaque Config.lostBlock : Nat → Nat → Block

/-- A count left unspecified by the draw with this number; the second number says which (R464 point 3, U2). -/
opaque Config.lostCount : Nat → Nat → Nat

/-- A flag left unspecified by the draw with this number; the second number says which (R464 point 3, U2). -/
opaque Config.lostFlag : Nat → Nat → Bool

/-- Whether destination byte `i` of the command that the draw with this number ended was written (R464, U3). -/
opaque Config.landed : Nat → Nat → Bool

/-- Whether an ABORT or a reset met the command at CPC already in progress, not the boundary before it (R187, U4). -/
opaque Config.inCommand : Nat → Bool

/-- What STATUS bits 3 and 8-20 read while BUSY = 1, for the read with this number (R46, U8). -/
opaque Config.busyStatus : Nat → Word

/-- Which command of the run CPC reads the address of while BUSY = 1, for the read with this number (R49, U9). -/
opaque Config.busyCpc : Nat → Nat

end Sys2Proof
end

