-- ==== Sys2Proof/Machine/State.lean ====
section
/-!
DEFINITION. The state of the core (10_state.md) as plain data, the two reasons a step can stop, and the state after a
hard reset (R57, R500).
-/

namespace Sys2Proof.Machine

/-! ### The pieces of state -/

/-- The block register file BR0 to BR3 (R32). -/
structure BRegs where
  br0 : Block
  br1 : Block
  br2 : Block
  br3 : Block
deriving DecidableEq, Repr

/-- MACMODE: the MAC construction keyed in MKEY (R35). -/
inductive MacMode where
  | none
  | cmac
  | pmac
deriving DecidableEq, Repr

/-- Key material and what is derived from it (R34 to R37). -/
structure Keys where
  /-- MKEY, the MAC key, 0 to 32 bytes; empty means no key (R34). -/
  mkey : List Byte
  /-- CKEY, the CTR key, 0 to 32 bytes; CTRKEY is set exactly when it is not empty (R34). -/
  ckey : List Byte
  /-- MACMODE (R35). -/
  macmode : MacMode
  /-- K1, CMAC subkey1 (R36). -/
  k1 : Block
  /-- K2, CMAC subkey2 (R36). -/
  k2 : Block
  /-- LT[0..30], the PMAC mask table (R37); its length is `Config.pmacLtab`. -/
  lt : Vector Block 31
  /-- LINV, the PMAC end mask (R37). -/
  linv : Block
deriving DecidableEq, Repr

/-- The MAC accumulator ACC (R38, R39). -/
structure Acc where
  /-- BUF (R38). -/
  buf : Block
  /-- POS, 0 to 16 (R38). -/
  pos : Nat
  /-- FIN (R38). -/
  fin : Bool
  /-- DIG, the cached digest (R38). -/
  dig : Block
  /-- OFF, the PMAC positional mask (R39). -/
  off : Block
  /-- SUM, the PMAC checksum (R39). -/
  sum : Block
  /-- PCNT, the PMAC full blocks since reset, 0 to 2^31 - 1 (R39). -/
  pcnt : Nat
deriving DecidableEq, Repr

/-- The S2V engine's state (R40). -/
structure S2v where
  /-- S2VACT (R40). -/
  act : Bool
  /-- D (R40). -/
  d : Block
  /-- NAD, 0 to P_MAX_AD (R40). -/
  nad : Nat
deriving DecidableEq, Repr

/-- STSTATE (R41, R420). -/
inductive StState where
  | idle
  | active
  | terminated
deriving DecidableEq, Repr

/-- The STREAM unit's state (R41). -/
structure Stream where
  /-- STSTATE (R41). -/
  state : StState
  /-- STDIR (R41). -/
  dir : Dir
  /-- PREFIX, P_PREFIX_LEN bytes (R41). -/
  pfx : List Byte
  /-- STCTR, 0 to 2^32 - 1 (R41). -/
  ctr : Word
deriving DecidableEq, Repr

/-- One action of the host on the core at one step (R30): nothing, a write to the MMIO block at an access width and a
byte offset, a write of one byte of MEM, or the platform's hard reset.  Host reads change nothing (R110) and are the
functions of Machine/Flags.lean and Machine/Reads.lean. -/
inductive HostAct where
  | quiet
  | mmioWrite (width off : Nat) (v : Word)
  | memWrite (addr : Nat) (b : Byte)
  | hardReset
deriving DecidableEq, Repr

/-- MEM as the bytes written since the last hard reset: (address, byte) pairs, addresses strictly rising (R100). -/
abbrev Memory := List Host.Cell

/-! ### The state -/

/-- The state of the core, its MEM, and the free choices of the agents around it. -/
structure State where
  /-- BR0 to BR3 (R32). -/
  br : BRegs
  /-- Key material and derived subkeys (R34 to R37). -/
  keys : Keys
  /-- The MAC accumulator (R38, R39). -/
  acc : Acc
  /-- S2V state (R40). -/
  s2v : S2v
  /-- STREAM state (R41). -/
  stream : Stream
  /-- BUSY: a run is in progress (R42). -/
  busy : Bool
  /-- CPC, the command pointer (R42, R49). -/
  cpc : Word
  /-- CORRUPT (R42). -/
  corrupt : Bool
  /-- ERRCODE bits 7:0 (R42, R47). -/
  errcode : Byte
  /-- ERRPC (R42, R50). -/
  errpc : Word
  /-- DONE (R42, R46). -/
  done : Bool
  /-- ERR (R42, R46). -/
  err : Bool
  /-- CPTR (R48). -/
  cptr : Word
  /-- CTRL.IRQEN (R45). -/
  irqen : Bool
  /-- Provider state: a request is outstanding, unanswered (R57, R58). -/
  reqOut : Bool
  /-- MEM (R100). -/
  mem : Memory
  /-- The model's own: how many hard resets came before, which says which power-on bytes MEM holds (R119). -/
  epoch : Nat
  /-- The model's own: the provider's forthcoming answers, the next first; where the list has ended, each answer is
  the free draw `Config.freeAnswer` (R33, R514). -/
  answers : List Answer
  /-- The model's own: the number of the next free answer. -/
  reqs : Nat
  /-- The model's own: the number of the next free draw (R464). -/
  draws : Nat
  /-- The model's own: the host's forthcoming actions, one a step, the next first; where the list has ended the host
  is quiet (R30). -/
  host : List HostAct
  /-- The model's own: the addresses of the commands that the run has completed, the latest first; a read of CPC
  during the run may return any of them (R49, U9). -/
  past : List Word
deriving DecidableEq, Repr

/-! ### Why a step can stop -/

/-- A fault of the machine.  There is none: every error of 60_exceptions.md R460 ends the run through the trap entry
of R466, which is a next state, and every access to MEM is range-checked first (R102).  Raised by nobody. -/
inductive Fault
deriving DecidableEq, Repr

/-- A refusal of the model. -/
inductive Refusal where
  /-- Raised by exec's arm of an instruction that has no meaning yet, with its mnemonic; safe (the model stops).  No
  arm raises it: every instruction of the opcode table has its meaning. -/
  | notModelled (mnemonic : String)
deriving DecidableEq, Repr

/-! ### Reset (R57, R500) -/

/-- No key loaded (R57). -/
def Keys.cleared : Keys where
  mkey := []
  ckey := []
  macmode := .none
  k1 := 0#128
  k2 := 0#128
  lt := Vector.replicate 31 0#128
  linv := 0#128

/-- The accumulator's reset value (R38, R39, R57). -/
def Acc.cleared : Acc where
  buf := 0#128
  pos := 0
  fin := false
  dig := 0#128
  off := 0#128
  sum := 0#128
  pcnt := 0

/-- The S2V engine's reset value (R40, R57). -/
def S2v.cleared : S2v where
  act := false
  d := 0#128
  nad := 0

/-- The STREAM unit's reset value (R41, R57). -/
def Stream.cleared : Stream where
  state := .idle
  dir := .enc
  pfx := List.replicate Config.prefixLen 0#8
  ctr := 0#32

/-- The core right after a hard reset (R57, R500), every byte of MEM unwritten (R119). -/
def State.reset : State where
  br := ⟨0#128, 0#128, 0#128, 0#128⟩
  keys := Keys.cleared
  acc := Acc.cleared
  s2v := S2v.cleared
  stream := Stream.cleared
  busy := false
  cpc := 0#32
  corrupt := false
  errcode := 0#8
  errpc := 0#32
  done := false
  err := false
  cptr := 0#32
  irqen := false
  reqOut := false
  mem := []
  epoch := 0
  answers := []
  reqs := 0
  draws := 0
  host := []
  past := []

end Sys2Proof.Machine
end

