-- ==== Sys2Proof/Machine/Ops.lean ====
section
/-!
DEFINITION. The named operations every command is made of: bytes of MEM (20_memory.md), the block register file
(10_state.md R32), zeroize (44_key_mac.md R299), the error codes and the trap entry (60_exceptions.md R460, R466) with
the start of a run beside it (40_sequencer.md R180), the provider's answers (10_state.md R33), and the one way in
which a command completes, fails or is interrupted (R464).
-/

namespace Sys2Proof.Machine

/-! ### MEM (R100, R101, R108, R119) -/

/-- The byte a memory lists at an address, if it lists one. -/
def Memory.lookup : Memory → Nat → Option Byte
  | [], _ => none
  | (k, b) :: m, a => if k = a then some b else Memory.lookup m a

/-- A memory with the byte at an address replaced, or put in its place among the rising addresses. -/
def Memory.insert : Memory → Nat → Byte → Memory
  | [], a, b => [(a, b)]
  | (k, c) :: m, a, b =>
    if a < k then (a, b) :: (k, c) :: m
    else if a = k then (a, b) :: m
    else (k, c) :: Memory.insert m a b

/-- The listed addresses rise strictly from `lo` on and lie in MEM. -/
def Memory.wfFrom : Nat → Memory → Bool
  | _, [] => true
  | lo, (k, _) :: m => decide (lo ≤ k) && decide (k < Config.memSize) && Memory.wfFrom (k + 1) m

/-- A memory has its one canonical form: the listed addresses rise strictly and lie in MEM.  An unlisted address
reads as no listed value, so no entry can equal it. -/
def Memory.wf (m : Memory) : Bool := Memory.wfFrom 0 m

/-- The byte range `[a, a+n)` is legal (R102). -/
def legal (a n : Nat) : Bool := decide (a + n ≤ Config.memSize)

/-- The byte of MEM at an address; a byte not written since the last hard reset is the power-on draw (R119). -/
def State.byteAt (s : State) (a : Nat) : Byte := (Memory.lookup s.mem a).getD (Config.powerOnByte s.epoch a)

/-- `MemRead(a, n)` (R16). -/
def State.readBytes (s : State) : Nat → Nat → Bytes
  | _, 0 => []
  | a, n + 1 => s.byteAt a :: State.readBytes s (a + 1) n

/-- One byte of MEM written.  No byte exists at `Config.memSize` or above; there nothing is written. -/
def State.setByte (s : State) (a : Nat) (b : Byte) : State :=
  if a < Config.memSize then { s with mem := Memory.insert s.mem a b } else s

/-- `MemWrite(a, n, v)`, ascending by address (R16, R108). -/
def State.writeBytes : State → Nat → Bytes → State
  | s, _, [] => s
  | s, a, b :: bs => State.writeBytes (s.setByte a b) (a + 1) bs

/-! ### The block registers (R32) -/

/-- BR[r]. -/
def BRegs.get (b : BRegs) : BReg → Block
  | .b0 => b.br0
  | .b1 => b.br1
  | .b2 => b.br2
  | .b3 => b.br3

/-- The register file after `BR[r] <- v`. -/
def BRegs.set (b : BRegs) (r : BReg) (v : Block) : BRegs :=
  match r with
  | .b0 => { b with br0 := v }
  | .b1 => { b with br1 := v }
  | .b2 => { b with br2 := v }
  | .b3 => { b with br3 := v }

/-- BR[r]. -/
def State.getBr (s : State) (r : BReg) : Block := s.br.get r

/-- `BR[r] <- v`. -/
def State.setBr (s : State) (r : BReg) (v : Block) : State := { s with br := s.br.set r v }

/-! ### Key state (R34, R35, R299) -/

/-- CTRKEY: CKEY holds a key (R34). -/
def Keys.ctrkey (k : Keys) : Bool := !k.ckey.isEmpty

/-- A MAC key is loaded (R35). -/
def Keys.hasMac (k : Keys) : Bool := k.macmode != .none

/-- zeroize (R299). -/
def State.zeroize (s : State) : State :=
  { s with keys := Keys.cleared, acc := Acc.cleared, s2v := S2v.cleared, stream := Stream.cleared }

/-! ### Errors, the trap entry and the start of a run (R460, R466, R180) -/

/-- The errors a run can end with (R460). -/
inductive Err where
  | illegal
  | fetch
  | addr
  | align
  | invalidKey
  | noKey
  | sequence
  | pmacLimit
  | adLimit
  | integrity
  | chunkSequence
  | counterOverflow
  | providerFault
  | aborted
  | corruptState
deriving DecidableEq, Repr

/-- The code of an error in ERRCODE (R460). -/
def Err.code : Err → Byte
  | .illegal => 0x01#8
  | .fetch => 0x02#8
  | .addr => 0x03#8
  | .align => 0x04#8
  | .invalidKey => 0x10#8
  | .noKey => 0x11#8
  | .sequence => 0x12#8
  | .pmacLimit => 0x13#8
  | .adLimit => 0x14#8
  | .integrity => 0x20#8
  | .chunkSequence => 0x30#8
  | .counterOverflow => 0x31#8
  | .providerFault => 0x40#8
  | .aborted => 0x41#8
  | .corruptState => 0x42#8

/-- The trap entry: the code and the failing command's address are recorded, ERR is set, the run ends, CPC stays
(R466, R461).  Where the core goes next is the host's to say. -/
def State.trap (s : State) (e : Err) : State :=
  { s with errcode := e.code, errpc := s.cpc, err := true, busy := false }

/-- The start of a run, and the only return from an error: CPC takes CPTR and the last run's record is cleared (R180,
R467). -/
def State.startRun (s : State) : State :=
  { s with cpc := s.cptr, done := false, err := false, errcode := 0#8, errpc := 0#32, busy := true, past := [] }

/-- CPC moves past a command of `n` bytes (R181, R182). -/
def State.advance (s : State) (n : Nat) : State := { s with cpc := s.cpc + BitVec.ofNat 32 n }

/-! ### The provider's answers (R33, R514) -/

/-- What the provider answers to the next requests of one command: every one granted, the request after so many
granted ones failed, or one never answered. -/
inductive Verdict where
  | granted
  | failed (after : Nat)
  | silent
deriving DecidableEq, Repr

/-- The provider's answer number `j` of those still to come (R33). -/
def State.answer (s : State) (j : Nat) : Answer :=
  (s.answers[j]?).getD (Config.freeAnswer s.draws (s.reqs + j))

/-- The verdict on `n` requests, the first of them answer number `j`; they are issued in order and the first that is
not granted ends the command (R33, R462). -/
def State.verdictFrom (s : State) : Nat → Nat → Verdict
  | _, 0 => .granted
  | j, n + 1 =>
    match s.answer j with
    | .ok => State.verdictFrom s (j + 1) n
    | .fail => .failed j
    | .silent => .silent

/-- The verdict on the next `n` requests. -/
def State.verdict (s : State) (n : Nat) : Verdict := s.verdictFrom 0 n

/-- `n` answers used up; after one of them no request is outstanding. -/
def State.spend (s : State) (n : Nat) : State :=
  { s with answers := s.answers.drop n, reqs := s.reqs + n, reqOut := s.reqOut && n == 0 }

/-- The outstanding request, if there is one, abandoned and its answer dropped with those before it (R500, R501).  Every
caller uses up a draw, so the free answers after it are new. -/
def State.abandon (s : State) : State :=
  if s.reqOut then { s with answers := (s.answers.dropWhile (· == .ok)).drop 1, reqOut := false } else s

/-! ### What an interrupted command may leave (R464) -/

/-- ACC as a draw leaves it: any value of each field (R464 point 3). -/
def lostAcc (n : Nat) : Acc where
  buf := Config.lostBlock n 0
  pos := Config.lostCount n 0 % 17
  fin := Config.lostFlag n 0
  dig := Config.lostBlock n 1
  off := Config.lostBlock n 2
  sum := Config.lostBlock n 3
  pcnt := Config.lostCount n 1 % 2 ^ Config.pmacLtab

/-- D, NAD and S2VACT as a draw leaves them (R464 point 3). -/
def lostS2v (n : Nat) : S2v where
  act := Config.lostFlag n 1
  d := Config.lostBlock n 4
  nad := Config.lostCount n 2 % (Config.maxAd + 1)

/-- ACC and S2V state as an interruption leaves them: any value (R464 point 3), but a command that has zeroed them
leaves ACC and D zero (R59). -/
def State.loseEngines (s : State) (n : Nat) (zeroed : Bool) : State :=
  { s with
    acc := if zeroed then Acc.cleared else lostAcc n
    s2v := if zeroed then { lostS2v n with d := 0#128 } else lostS2v n }

/-- The block register a command writes, as a draw leaves it (R464 point 3). -/
def State.loseReg (s : State) (n : Nat) : Option BReg → State
  | none => s
  | some r => s.setBr r (Config.lostBlock n 5)

/-- Those of the bytes at `a` that the draw says were written, from byte number `i` on; the others keep their values
(R464 points 5 and 6). -/
def State.writeSome (n : Nat) : Nat → State → Nat → Bytes → State
  | _, s, _, [] => s
  | i, s, a, b :: bs => State.writeSome n (i + 1) (if Config.landed n i then s.setByte a b else s) (a + 1) bs

/-- CORRUPT set, and the draw that says what was lost used up (R464 point 1). -/
def State.corrupted (s : State) : State := { s with corrupt := true, draws := s.draws + 1 }

/-! ### Carrying out a command (R108, R181, R462 to R465) -/

/-- A command whose checks have passed. -/
structure Job where
  /-- The state in which the command's provider requests are made. -/
  base : State
  /-- How many requests it makes. -/
  reqs : Nat
  /-- The block register it writes. -/
  reg : Option BReg
  /-- Where its destination range starts. -/
  dst : Nat
  /-- What an interrupted run of it may have written there: the bytes it would have written, zeros for an open-type
  command (R464 points 5 and 6). -/
  bytes : Bytes
  /-- It has zeroed ACC and D, which a failure of it leaves zero (R59). -/
  zeroed : Bool
  /-- The state it leaves when every request is granted, CPC not yet moved. -/
  final : State
  /-- The error it raises with that state, if it raises one. -/
  raises : Option Err
deriving DecidableEq, Repr

/-- What a command does: an error at a check, with the state that leaves (R463), or a job. -/
inductive Plan where
  | stop (e : Err) (s : State)
  | go (j : Job)
deriving DecidableEq, Repr

/-- The job of a command that makes no request and ends without error. -/
def Job.plain (s final : State) : Job where
  base := s
  reqs := 0
  reg := none
  dst := 0
  bytes := []
  zeroed := false
  final := final
  raises := none

/-- A command other than END, NOP, KCLEAR and KIMPORT raises CORRUPT_STATE while CORRUPT = 1, before any check of its
own (R181, R189). -/
def gated (s : State) (p : Plan) : Plan := if s.corrupt then .stop .corruptState s else p

/-- What an interruption of the job leaves of it: the engines and the register any value, the destination written in
part (R464, R59). -/
def Job.interrupted (j : Job) : State :=
  State.writeSome j.base.draws 0 ((j.base.loseEngines j.base.draws j.zeroed).loseReg j.base.draws j.reg) j.dst j.bytes

/-- The end of a job whose requests were all granted: CPC moves by `n`, or the error is raised (R181, R465). -/
def Job.finish (j : Job) (n : Nat) : State :=
  match j.raises with
  | none => (j.final.spend j.reqs).advance n
  | some e => (j.final.spend j.reqs).trap e

/-- The end of a job whose request after `k` granted ones failed (R464). -/
def Job.fail (j : Job) (k : Nat) : State := ((j.interrupted.corrupted).spend (k + 1)).trap .providerFault

/-- A command of `n` bytes carried out: the trap entry where a check fails; else its requests, then its effect.  While
a request is unanswered the command does not end (R186, R188). -/
def runPlan (s : State) (n : Nat) (p : Plan) : Host.Outcome State Fault Refusal :=
  match p with
  | .stop e t => .next (t.trap e)
  | .go j =>
    match j.base.verdict j.reqs with
    | .granted => .next (j.finish n)
    | .failed k => .next (j.fail k)
    | .silent => .next { s with reqOut := true }

end Sys2Proof.Machine
end

