-- ==== Sys2Proof/Machine/Mac.lean ====
section
/-!
DEFINITION. The MAC engines as functions of the block cipher, the keys and the accumulator: CMAC (42_cmac.md), PMAC
(43_pmac.md), the choice between them by MACMODE (44_key_mac.md) and the one-shot MAC1 (R307).  `e` is `BC(MKEY, ·)`.
Each value function stands beside the number of provider requests the engine makes for it.
-/

namespace Sys2Proof.Machine

/-! ### Blocks absorbed by an update (R233, R235, R270) -/

/-- `b` of R270: the blocks absorbed, one Enc request each, by an update of `n` bytes with `pos` bytes pending. -/
def absorbed (pos n : Nat) : Nat := if pos + n ≤ 16 then 0 else (pos + n + 15) / 16 - 1

/-! ### CMAC (42_cmac.md) -/

/-- K1 and K2 from the MAC key (R231). -/
def cmacSubkeys (e : Block → Block) : Block × Block :=
  let l := e 0#128
  (dbl l, dbl (dbl l))

/-- `cmac_reset` (R232). -/
def cmacReset (a : Acc) : Acc := { a with buf := 0#128, pos := 0, fin := false, dig := 0#128 }

/-- The `while` loop of R234 over `k` full blocks of the input: the chaining value after them. -/
def cmacChain (e : Block → Block) : Nat → Block → Bytes → Block
  | 0, c, _ => c
  | k + 1, c, d => cmacChain e k (e (c ^^^ blockOf (d.take 16))) (d.drop 16)

/-- `cmac_update(d)` (R234). -/
def cmacUpdate (e : Block → Block) (a : Acc) (d : Bytes) : Acc :=
  let left := 16 - a.pos
  if d.length ≤ left then
    { a with buf := a.buf ^^^ placeAt a.pos d, pos := a.pos + d.length }
  else
    let c := e (a.buf ^^^ placeAt a.pos (d.take left))
    let rest := d.drop left
    let k := (rest.length - 1) / 16
    let tail := rest.drop (16 * k)
    { a with buf := cmacChain e k c rest ^^^ placeAt 0 tail, pos := tail.length }

/-- The block `cmac_finish` encrypts: K2 and the pad bit for a partial or empty last block, K1 for a full one
(R236). -/
def cmacLast (k : Keys) (a : Acc) : Block :=
  if a.pos < 16 then a.buf ^^^ k.k2 ^^^ placeAt a.pos [0x80#8] else a.buf ^^^ k.k1

/-! ### PMAC (43_pmac.md) -/

/-- LT and LINV from the MAC key (R261, R262). -/
def pmacTable (e : Block → Block) : Vector Block 31 × Block :=
  let l := e 0#128
  (Vector.ofFn fun i => dblTimes i.val l, halve l)

/-- `pmac_reset` (R263). -/
def pmacReset (_ : Acc) : Acc := Acc.cleared

/-- LT[i]. -/
def Keys.mask (k : Keys) (i : Nat) : Block := (k.lt[i]?).getD 0#128

/-- `pmac_block`: one full pending block absorbed (R265). -/
def pmacBlock (e : Block → Block) (k : Keys) (a : Acc) : Acc :=
  let off := a.off ^^^ k.mask (ntz (a.pcnt + 1))
  { a with pcnt := a.pcnt + 1, off := off, sum := a.sum ^^^ e (a.buf ^^^ off), pos := 0 }

/-- The `while` loop of R266 over `n` full blocks of the input. -/
def pmacBlocks (e : Block → Block) (k : Keys) : Nat → Acc → Bytes → Acc
  | 0, a, _ => a
  | n + 1, a, d => pmacBlocks e k n (pmacBlock e k { a with buf := blockOf (d.take 16), pos := 16 }) (d.drop 16)

/-- `pmac_update(d)` (R266). -/
def pmacUpdate (e : Block → Block) (k : Keys) (a : Acc) (d : Bytes) : Acc :=
  let left := 16 - a.pos
  if d.length ≤ left then
    { a with buf := overlay a.buf a.pos d, pos := a.pos + d.length }
  else
    let a1 := pmacBlock e k { a with buf := overlay a.buf a.pos (d.take left), pos := 16 }
    let rest := d.drop left
    let n := (rest.length - 1) / 16
    let a2 := pmacBlocks e k n a1 rest
    let tail := rest.drop (16 * n)
    { a2 with buf := overlay a2.buf 0 tail, pos := tail.length }

/-- The block `pmac_finish` encrypts: LINV for a full last block, padding and no mask for a partial or empty one
(R267). -/
def pmacLast (k : Keys) (a : Acc) : Block :=
  if a.pos = 16 then a.sum ^^^ a.buf ^^^ k.linv else a.sum ^^^ padBlock ((blockBytes a.buf).take a.pos)

/-! ### The engine MACMODE names (44_key_mac.md) -/

/-- `mac_reset`. -/
def macReset (m : MacMode) (a : Acc) : Acc :=
  match m with
  | .pmac => pmacReset a
  | .cmac => cmacReset a
  | .none => cmacReset a

/-- `mac_update(d)`. -/
def macUpdate (e : Block → Block) (k : Keys) (a : Acc) (d : Bytes) : Acc :=
  match k.macmode with
  | .pmac => pmacUpdate e k a d
  | .cmac => cmacUpdate e a d
  | .none => cmacUpdate e a d

/-- The block that `mac_finish` encrypts. -/
def macLast (k : Keys) (a : Acc) : Block :=
  match k.macmode with
  | .pmac => pmacLast k a
  | .cmac => cmacLast k a
  | .none => cmacLast k a

/-- `mac_finish`: the cached digest, or the last block encrypted, cached and FIN set (R236, R237, R267). -/
def macFinish (e : Block → Block) (k : Keys) (a : Acc) : Acc :=
  if a.fin then a else { a with dig := e (macLast k a), fin := true }

/-- The requests of `mac_finish`: none when the digest is cached (R237). -/
def macFinishReqs (a : Acc) : Nat := if a.fin then 0 else 1

/-! ### MAC1 (R307) -/

/-- `MAC1(x)`: the MAC of one whole string. -/
def mac1 (e : Block → Block) (k : Keys) (x : Bytes) : Block :=
  (macFinish e k (macUpdate e k (macReset k.macmode Acc.cleared) x)).dig

/-- The requests of `MAC1` on a string of `n` bytes (R235, R307). -/
def mac1Reqs (n : Nat) : Nat := absorbed 0 n + 1

end Sys2Proof.Machine
end

