-- ==== Sys2Proof/Machine/S2v.lean ====
section
/-!
DEFINITION. S2V, counter mode and the seal and open functions over them (45_s2v_siv.md, 46_aead.md R400, 47_stream.md
R421), as functions of the block cipher `bc` and the keys, each beside its number of provider requests.
-/

namespace Sys2Proof.Machine

/-! ### S2V (R340) -/

/-- Step 1: `MAC1(0^16)`. -/
def s2vStart (e : Block → Block) (k : Keys) : Block := mac1 e k (List.replicate 16 0#8)

/-- Step 2 for one AD string. -/
def s2vAbsorb (e : Block → Block) (k : Keys) (d : Block) (x : Bytes) : Block := dbl d ^^^ mac1 e k x

/-- Step 3: the string T that the last MAC1 takes. -/
def s2vLast (d : Block) (x : Bytes) : Bytes :=
  if 16 ≤ x.length then xorend x d else blockBytes (dbl d ^^^ padBlock x)

/-- `S2V(ads, x)` (R340). -/
def s2vTag (e : Block → Block) (k : Keys) (ads : List Bytes) (x : Bytes) : Block :=
  mac1 e k (s2vLast (ads.foldl (s2vAbsorb e k) (s2vStart e k)) x)

/-- The requests of the last MAC1, over T. -/
def s2vLastReqs (n : Nat) : Nat := mac1Reqs (if 16 ≤ n then n else 16)

/-- The requests of S2V. -/
def s2vReqs (ads : List Bytes) (n : Nat) : Nat :=
  mac1Reqs 16 + (ads.map fun a => mac1Reqs a.length).sum + s2vLastReqs n

/-! ### Counter mode (R348) -/

/-- `Cj`: the low P_CTR_BITS bits of the counter block advanced by `j` (R348). -/
def ctrBlock (q : Block) (j : Nat) : Block :=
  BitVec.ofNat 128
    (q.toNat / 2 ^ Config.ctrBits * 2 ^ Config.ctrBits + (q.toNat + j) % 2 ^ Config.ctrBits)

/-- The key stream of `n` blocks from counter number `j` on. -/
def keyStream (e : Block → Block) (q : Block) : Nat → Nat → Bytes
  | _, 0 => []
  | j, n + 1 => blockBytes (e (ctrBlock q j)) ++ keyStream e q (j + 1) n

/-- `Ctr(k, Q, Dd)` (R348). -/
def ctr (e : Block → Block) (q : Block) (d : Bytes) : Bytes := xorBytes d (keyStream e q 0 ((d.length + 15) / 16))

/-- The requests of `Ctr` on `n` bytes: one, and none for the empty string (R348). -/
def ctrReqs (n : Nat) : Nat := if n = 0 then 0 else 1

/-! ### SIV, AEAD and STREAM (R352, R353, R400, R421) -/

/-- `siv_seal` (R352). -/
def sivSeal (bc : Bytes → Block → Block) (k : Keys) (ads : List Bytes) (p : Bytes) : Bytes :=
  let v := s2vTag (bc k.mkey) k ads p
  blockBytes v ++ ctr (bc k.ckey) (ivq v) p

/-- `siv_open` (R353): the plaintext, or nothing on a tag mismatch; the tags are compared whole (R356). -/
def sivOpen (bc : Bytes → Block → Block) (k : Keys) (ads : List Bytes) (x : Bytes) : Option Bytes :=
  let v := blockOf (x.take 16)
  let p := ctr (bc k.ckey) (ivq v) (x.drop 16)
  if s2vTag (bc k.mkey) k ads p = v then some p else none

/-- The requests of a seal or an open over `n` bytes of plaintext: one Ctr and those of S2V (R352, R353). -/
def sivReqs (ads : List Bytes) (n : Nat) : Nat := s2vReqs ads n + ctrReqs n

/-- `aead_seal`: the nonce is the last AD string (R400). -/
def aeadSeal (bc : Bytes → Block → Block) (k : Keys) (ads : List Bytes) (nonce p : Bytes) : Bytes :=
  sivSeal bc k (ads ++ [nonce]) p

/-- `aead_open` (R400). -/
def aeadOpen (bc : Bytes → Block → Block) (k : Keys) (ads : List Bytes) (nonce x : Bytes) : Option Bytes :=
  sivOpen bc k (ads ++ [nonce]) x

/-- `stream_nonce(c, last)` under a prefix (R421). -/
def streamNonce (pfx : Bytes) (c : Word) (chunk : Chunk) : Bytes :=
  pfx ++ be32 c ++ [match chunk with | .last => 0x01#8 | .more => 0x00#8]

end Sys2Proof.Machine
end

