-- ==== Sys2Proof/Machine/Operands.lean ====
section
/-!
DEFINITION. The operand forms of the commands: words, blocks and byte ranges of MEM (20_memory.md R103, R104,
30_encoding.md R153), the AD descriptor list (R117, R351), the split of an imported key (R301) and the checks that
several commands share.
-/

namespace Sys2Proof.Machine

/-- `word(a)`: the big-endian word of MEM at an address (R103). -/
def State.word (s : State) (a : Nat) : Word :=
  beword (s.byteAt a) (s.byteAt (a + 1)) (s.byteAt (a + 2)) (s.byteAt (a + 3))

/-- The block of MEM at an address (R104). -/
def State.blockAt (s : State) (a : Nat) : Block := blockOf (s.readBytes a 16)

/-- The byte range that an address operand and a length operand give is legal (R102, R153). -/
def legalRange (addr len : Word) : Bool := legal addr.toNat len.toNat

/-- `MemRead` of the range two operands give (R153). -/
def State.operand (s : State) (addr len : Word) : Bytes := s.readBytes addr.toNat len.toNat

/-! ### The AD descriptor list (R117, R351) -/

/-- The (address, length) pairs of a descriptor list, `n` of them from address `a` on (R117). -/
def State.descPairs (s : State) : Nat → Nat → List (Nat × Nat)
  | _, 0 => []
  | a, n + 1 => ((s.word a).toNat, (s.word (a + 4)).toNat) :: State.descPairs s (a + 8) n

/-- `read_ads(A)`: the AD strings of a descriptor list, or the first check that fails (R351). -/
def State.readAds (s : State) (desc : Word) : Except Err (List Bytes) :=
  let a := desc.toNat
  if a % 4 ≠ 0 then .error .align
  else if !legal a 4 then .error .addr
  else
    let n := (s.word a).toNat
    if !legal (a + 4) (8 * n) then .error .addr
    else
      let pairs := s.descPairs (a + 4) n
      if pairs.all fun p => legal p.1 p.2 then .ok (pairs.map fun p => s.readBytes p.1 p.2)
      else .error .addr

/-! ### Keys (R301) -/

/-- `split_key(mode, key)`: the MAC key and the CTR key, or nothing where the length is not accepted (R301). -/
def splitKey (mode : KeyMode) (key : Bytes) : Option (Bytes × Bytes) :=
  let n := key.length
  match mode with
  | .cmac => if Config.acceptsKeyLen n then some (key, []) else none
  | .pmac => if Config.acceptsKeyLen n then some (key, []) else none
  | .siv =>
    if n % 2 = 1 || !Config.acceptsKeyLen (n / 2) then none else some (key.take (n / 2), key.drop (n / 2))
  | .pmacsiv =>
    if n % 2 = 1 || !Config.acceptsKeyLen (n / 2) then none else some (key.take (n / 2), key.drop (n / 2))

/-- The MAC construction an import mode selects (R150, R300). -/
def macOf : KeyMode → MacMode
  | .cmac => .cmac
  | .pmac => .pmac
  | .siv => .cmac
  | .pmacsiv => .pmac

/-! ### Shared checks -/

/-- A MAC key and a CTR key are both loaded: no NO_KEY for a whole-message command (R354). -/
def Keys.hasBoth (k : Keys) : Bool := k.hasMac && k.ctrkey

/-- The plaintext length of a sealed input: its length less the tag, and 0 for a short one (R355). -/
def openLen (len : Nat) : Nat := if 16 ≤ len then len - 16 else 0

end Sys2Proof.Machine
end

