-- ==== Sys2Proof/Machine/KeyMac.lean ====
section
/-!
DEFINITION. Key import and clearing, and the MAC commands (44_key_mac.md R300 to R306).
-/

namespace Sys2Proof.Machine

/-! ### Key import and clearing -/

/-- The keys after an import: the key halves, MACMODE and what `derive()` computes with one Enc request (R300,
R302). -/
def Keys.imported (mode : KeyMode) (mk ck : Bytes) : Keys :=
  let e := Config.bc mk
  match macOf mode with
  | .pmac =>
    { Keys.cleared with mkey := mk, ckey := ck, macmode := .pmac, lt := (pmacTable e).1, linv := (pmacTable e).2 }
  | m =>
    { Keys.cleared with mkey := mk, ckey := ck, macmode := m, k1 := (cmacSubkeys e).1, k2 := (cmacSubkeys e).2 }

/-- The requests of an import: Import of each non-empty half, then one Enc (R302). -/
def importReqs (ck : Bytes) : Nat := if ck.isEmpty then 2 else 3

/-- KIMPORT: zeroize first, then the length check, the import and the derivation (R300).  The provider's Import answers
`invalid` exactly for the lengths that `splitKey` has already refused (R33). -/
def planKimport (mode : KeyMode) (addr len : Word) (s : State) : Plan :=
  if !legalRange addr len then .stop .addr s
  else
    let z := { s.zeroize with corrupt := false }
    match splitKey mode (s.operand addr len) with
    | none => .go { Job.plain z z with zeroed := true, raises := some .invalidKey }
    | some (mk, ck) =>
      .go { Job.plain z { z with keys := Keys.imported mode mk ck } with zeroed := true, reqs := importReqs ck }

/-- KCLEAR (R303). -/
def planKclear (s : State) : Plan := .go (Job.plain s { s.zeroize with corrupt := false })

/-- The meaning of KIMPORT (R300). -/
def execKimport (mode : KeyMode) (addr len : Word) (s : State) : Host.Outcome State Fault Refusal :=
  runPlan s 12 (planKimport mode addr len s)

/-- The meaning of KCLEAR (R303). -/
def execKclear (s : State) : Host.Outcome State Fault Refusal := runPlan s 4 (planKclear s)

/-! ### MAC commands -/

/-- The block cipher under MKEY. -/
def Keys.macEnc (k : Keys) : Block → Block := Config.bc k.mkey

/-- MRESET (R304). -/
def planMreset (s : State) : Plan :=
  gated s <|
    if !s.keys.hasMac then .stop .noKey s
    else .go (Job.plain s { s with acc := macReset s.keys.macmode s.acc })

/-- The block limit of a PMAC message, `2^P_PMAC_LTAB - 1` (R270). -/
def pmacLimit : Nat := 2 ^ Config.pmacLtab - 1

/-- MUPDATE (R305). -/
def planMupdate (addr len : Word) (s : State) : Plan :=
  gated s <|
    if !legalRange addr len then .stop .addr s
    else if !s.keys.hasMac then .stop .noKey s
    else if s.acc.fin then .stop .sequence s
    else if s.keys.macmode == .pmac && decide (pmacLimit < s.acc.pcnt + absorbed s.acc.pos len.toNat) then
      .stop .pmacLimit s
    else
      .go { Job.plain s { s with acc := macUpdate s.keys.macEnc s.keys s.acc (s.operand addr len) } with
            reqs := absorbed s.acc.pos len.toNat }

/-- MFINISH (R306). -/
def planMfinish (rd : BReg) (s : State) : Plan :=
  gated s <|
    if !s.keys.hasMac then .stop .noKey s
    else
      let a := macFinish s.keys.macEnc s.keys s.acc
      .go { Job.plain s { s with acc := a, br := s.br.set rd a.dig } with
            reqs := macFinishReqs s.acc, reg := some rd }

/-- The meaning of MRESET (R304). -/
def execMreset (s : State) : Host.Outcome State Fault Refusal := runPlan s 4 (planMreset s)

/-- The meaning of MUPDATE (R305). -/
def execMupdate (addr len : Word) (s : State) : Host.Outcome State Fault Refusal :=
  runPlan s 12 (planMupdate addr len s)

/-- The meaning of MFINISH (R306). -/
def execMfinish (rd : BReg) (s : State) : Host.Outcome State Fault Refusal := runPlan s 4 (planMfinish rd s)

end Sys2Proof.Machine
end

