-- ==== Sys2Proof/Machine/Siv.lean ====
section
/-!
DEFINITION. The step-by-step S2V commands, the IV combiner, counter mode, and the whole-message SIV commands
(45_s2v_siv.md R344 to R357), with the seal and open steps that the AEAD and STREAM commands share.
-/

namespace Sys2Proof.Machine

/-! ### Step-by-step S2V -/

/-- ACC in the reset state, where every MAC1 leaves it (R307). -/
def State.macIdle (s : State) : State := { s with acc := macReset s.keys.macmode s.acc }

/-- S2VINIT (R344). -/
def planS2vinit (s : State) : Plan :=
  gated s <|
    if !s.keys.hasMac then .stop .noKey s
    else
      let d := s2vStart s.keys.macEnc s.keys
      .go { Job.plain s { s.macIdle with s2v := ⟨true, d, 0⟩ } with reqs := mac1Reqs 16 }

/-- S2VAD (R345). -/
def planS2vad (addr len : Word) (s : State) : Plan :=
  gated s <|
    if !legalRange addr len then .stop .addr s
    else if !s.keys.hasMac then .stop .noKey s
    else if !s.s2v.act then .stop .sequence s
    else if s.s2v.nad = Config.maxAd then .stop .adLimit s
    else
      let d := s2vAbsorb s.keys.macEnc s.keys s.s2v.d (s.operand addr len)
      .go { Job.plain s { s.macIdle with s2v := ⟨true, d, s.s2v.nad + 1⟩ } with reqs := mac1Reqs len.toNat }

/-- S2VFIN (R346). -/
def planS2vfin (rd : BReg) (addr len : Word) (s : State) : Plan :=
  gated s <|
    if !legalRange addr len then .stop .addr s
    else if !s.keys.hasMac then .stop .noKey s
    else if !s.s2v.act then .stop .sequence s
    else
      let v := mac1 s.keys.macEnc s.keys (s2vLast s.s2v.d (s.operand addr len))
      .go { Job.plain s { s.macIdle with s2v := S2v.cleared, br := s.br.set rd v } with
            reqs := s2vLastReqs len.toNat, reg := some rd }

/-- The meaning of S2VINIT (R344). -/
def execS2vinit (s : State) : Host.Outcome State Fault Refusal := runPlan s 4 (planS2vinit s)

/-- The meaning of S2VAD (R345). -/
def execS2vad (addr len : Word) (s : State) : Host.Outcome State Fault Refusal := runPlan s 12 (planS2vad addr len s)

/-- The meaning of S2VFIN (R346). -/
def execS2vfin (rd : BReg) (addr len : Word) (s : State) : Host.Outcome State Fault Refusal :=
  runPlan s 12 (planS2vfin rd addr len s)

/-! ### IV combiner and counter mode -/

/-- IVQ (R349). -/
def planIvq (rd rs : BReg) (s : State) : Plan :=
  gated s (.go { Job.plain s (s.setBr rd (ivq (s.getBr rs))) with reg := some rd })

/-- CTRX (R350). -/
def planCtrx (rs : BReg) (src len dst : Word) (s : State) : Plan :=
  gated s <|
    if !legalRange src len then .stop .addr s
    else if !legalRange dst len then .stop .addr s
    else if !s.keys.ctrkey then .stop .noKey s
    else
      let out := ctr (Config.bc s.keys.ckey) (s.getBr rs) (s.operand src len)
      .go { Job.plain s (s.writeBytes dst.toNat out) with
            reqs := ctrReqs len.toNat, dst := dst.toNat, bytes := out }

/-- The meaning of IVQ (R349). -/
def execIvq (rd rs : BReg) (s : State) : Host.Outcome State Fault Refusal := runPlan s 4 (planIvq rd rs s)

/-- The meaning of CTRX (R350). -/
def execCtrx (rs : BReg) (src len dst : Word) (s : State) : Host.Outcome State Fault Refusal :=
  runPlan s 16 (planCtrx rs src len dst s)

/-! ### The steps every whole-message command shares -/

/-- `s2v_idle()` (R357). -/
def State.s2vIdle (s : State) : State := { s.macIdle with s2v := S2v.cleared }

/-- Sealing `p` under the AD strings `ads` to `dst`; `after` is what the command does last (R354). -/
def sealJob (ads : List Bytes) (p : Bytes) (dst : Nat) (after : State → State) (s : State) : Job :=
  let out := sivSeal Config.bc s.keys ads p
  { Job.plain s (after (s.writeBytes dst out).s2vIdle) with
    reqs := sivReqs ads p.length, dst := dst, bytes := out }

/-- Opening `x`, of at least 16 bytes, under the AD strings `ads` to `dst`: the plaintext and `after`, or zeros and
INTEGRITY (R355, R465). -/
def openJob (ads : List Bytes) (x : Bytes) (dst : Nat) (after : State → State) (s : State) : Job :=
  let zeros := List.replicate (openLen x.length) 0#8
  let opened := sivOpen Config.bc s.keys ads x
  { base := s
    reqs := sivReqs ads (openLen x.length)
    reg := none
    dst := dst
    bytes := zeros
    zeroed := false
    final :=
      match opened with
      | some p => after (s.writeBytes dst p).s2vIdle
      | none => (s.writeBytes dst zeros).s2vIdle
    raises :=
      match opened with
      | some _ => none
      | none => some .integrity }

/-! ### Whole-message SIV -/

/-- SIVSEAL (R354). -/
def planSivseal (desc src len dst : Word) (s : State) : Plan :=
  gated s <|
    match s.readAds desc with
    | .error e => .stop e s
    | .ok ads =>
      if !legalRange src len then .stop .addr s
      else if !legal dst.toNat (16 + len.toNat) then .stop .addr s
      else if !s.keys.hasBoth then .stop .noKey s
      else if Config.maxAd < ads.length then .stop .adLimit s
      else .go (sealJob ads (s.operand src len) dst.toNat id s)

/-- SIVOPEN (R355). -/
def planSivopen (desc src len dst : Word) (s : State) : Plan :=
  gated s <|
    match s.readAds desc with
    | .error e => .stop e s
    | .ok ads =>
      if !legalRange src len then .stop .addr s
      else if !legal dst.toNat (openLen len.toNat) then .stop .addr s
      else if !s.keys.hasBoth then .stop .noKey s
      else if Config.maxAd < ads.length then .stop .adLimit s
      else if len.toNat < 16 then .stop .integrity s
      else .go (openJob ads (s.operand src len) dst.toNat id s)

/-- The meaning of SIVSEAL (R354). -/
def execSivseal (desc src len dst : Word) (s : State) : Host.Outcome State Fault Refusal :=
  runPlan s 20 (planSivseal desc src len dst s)

/-- The meaning of SIVOPEN (R355). -/
def execSivopen (desc src len dst : Word) (s : State) : Host.Outcome State Fault Refusal :=
  runPlan s 20 (planSivopen desc src len dst s)

end Sys2Proof.Machine
end

