-- ==== Sys2Proof/Machine/Aead.lean ====
section
/-!
DEFINITION. The AEAD commands (46_aead.md R401, R402): SIV with the nonce as the last AD string (R400).
-/

namespace Sys2Proof.Machine

/-- AEADSEAL (R401). -/
def planAeadseal (desc nonce nlen src len dst : Word) (s : State) : Plan :=
  gated s <|
    match s.readAds desc with
    | .error e => .stop e s
    | .ok ads =>
      if !legalRange nonce nlen then .stop .addr s
      else if !legalRange src len then .stop .addr s
      else if !legal dst.toNat (16 + len.toNat) then .stop .addr s
      else if !s.keys.hasBoth then .stop .noKey s
      else if Config.maxAd < ads.length + 1 then .stop .adLimit s
      else .go (sealJob (ads ++ [s.operand nonce nlen]) (s.operand src len) dst.toNat id s)

/-- AEADOPEN (R402). -/
def planAeadopen (desc nonce nlen src len dst : Word) (s : State) : Plan :=
  gated s <|
    match s.readAds desc with
    | .error e => .stop e s
    | .ok ads =>
      if !legalRange nonce nlen then .stop .addr s
      else if !legalRange src len then .stop .addr s
      else if !legal dst.toNat (openLen len.toNat) then .stop .addr s
      else if !s.keys.hasBoth then .stop .noKey s
      else if Config.maxAd < ads.length + 1 then .stop .adLimit s
      else if len.toNat < 16 then .stop .integrity s
      else .go (openJob (ads ++ [s.operand nonce nlen]) (s.operand src len) dst.toNat id s)

/-- The meaning of AEADSEAL (R401). -/
def execAeadseal (desc nonce nlen src len dst : Word) (s : State) : Host.Outcome State Fault Refusal :=
  runPlan s 28 (planAeadseal desc nonce nlen src len dst s)

/-- The meaning of AEADOPEN (R402). -/
def execAeadopen (desc nonce nlen src len dst : Word) (s : State) : Host.Outcome State Fault Refusal :=
  runPlan s 28 (planAeadopen desc nonce nlen src len dst s)

end Sys2Proof.Machine
end

