-- ==== Sys2Proof/Machine/BlockUnit.lean ====
section
/-!
DEFINITION. The block-register commands (41_block_unit.md R205 to R210).
-/

namespace Sys2Proof.Machine

/-- A command that only writes a block register (R204). -/
def planReg (s : State) (rd : BReg) (v : Block) : Plan :=
  gated s (.go { Job.plain s (s.setBr rd v) with reg := some rd })

/-- BLD (R209). -/
def planBld (rd : BReg) (addr : Word) (s : State) : Plan :=
  gated s <|
    if !legal addr.toNat 16 then .stop .addr s
    else .go { Job.plain s (s.setBr rd (s.blockAt addr.toNat)) with reg := some rd }

/-- BST (R210). -/
def planBst (rs : BReg) (addr : Word) (s : State) : Plan :=
  gated s <|
    if !legal addr.toNat 16 then .stop .addr s
    else
      let v := blockBytes (s.getBr rs)
      .go { Job.plain s (s.writeBytes addr.toNat v) with dst := addr.toNat, bytes := v }

/-- BCLR (R205). -/
def planBclr (rd : BReg) (s : State) : Plan := planReg s rd 0#128

/-- BMOV (R206). -/
def planBmov (rd rs : BReg) (s : State) : Plan := planReg s rd (s.getBr rs)

/-- BXOR (R207). -/
def planBxor (rd rs : BReg) (s : State) : Plan := planReg s rd (s.getBr rd ^^^ s.getBr rs)

/-- BDBL (R208). -/
def planBdbl (rd rs : BReg) (s : State) : Plan := planReg s rd (dbl (s.getBr rs))

/-- The meaning of BCLR (R205). -/
def execBclr (rd : BReg) (s : State) : Host.Outcome State Fault Refusal := runPlan s 4 (planBclr rd s)

/-- The meaning of BMOV (R206). -/
def execBmov (rd rs : BReg) (s : State) : Host.Outcome State Fault Refusal := runPlan s 4 (planBmov rd rs s)

/-- The meaning of BXOR (R207). -/
def execBxor (rd rs : BReg) (s : State) : Host.Outcome State Fault Refusal := runPlan s 4 (planBxor rd rs s)

/-- The meaning of BDBL (R208). -/
def execBdbl (rd rs : BReg) (s : State) : Host.Outcome State Fault Refusal := runPlan s 4 (planBdbl rd rs s)

/-- The meaning of BLD (R209). -/
def execBld (rd : BReg) (addr : Word) (s : State) : Host.Outcome State Fault Refusal :=
  runPlan s 8 (planBld rd addr s)

/-- The meaning of BST (R210). -/
def execBst (rs : BReg) (addr : Word) (s : State) : Host.Outcome State Fault Refusal :=
  runPlan s 8 (planBst rs addr s)

end Sys2Proof.Machine
end

