-- ==== Sys2Proof/Machine/Fetch.lean ====
section
/-!
DEFINITION. Fetching a command (40_sequencer.md R181): the bytes of MEM from CPC on, as many as the longest command
has, given to the decoder; and the placing of a command's bytes where the next fetch reads them.
-/

namespace Sys2Proof.Machine

/-- The bytes of the longest command (R140). -/
def maxBytes : Nat := 4 * maxWords

/-- The bytes that a fetch at CPC may read: those of the longest command, as far as MEM reaches (R102, R181). -/
def State.window (s : State) : Bytes :=
  s.readBytes s.cpc.toNat (min maxBytes (Config.memSize - s.cpc.toNat))

/-- The error of a fetch that gives no command: FETCH for bytes outside MEM, ILLEGAL for a header that is not well
formed (R181, R462). -/
def fetchErr : DecodeError → Err
  | .noHeader => .fetch
  | .illegal => .illegal
  | .noOperands => .fetch

/-- The command at CPC, or the error its fetch raises (R181). -/
def State.fetch (s : State) : Except Err Instr :=
  match decode s.window with
  | .ok (i, _) => .ok i
  | .error e => .error (fetchErr e)

/-- The state that the command at CPC of `s` left, with the run's list of completed commands longer by that command's
address where the run goes on past it (R49). -/
def State.moved (s t : State) : State :=
  if t.busy && t.cpc != s.cpc then { t with past := s.cpc :: t.past } else t

/-- An outcome of the command at CPC of `s`, its address noted where the run goes on past it. -/
def State.noted (s : State) (o : Host.Outcome State Fault Refusal) : Host.Outcome State Fault Refusal :=
  match o with
  | .next t => .next (s.moved t)
  | .fault f => .fault f
  | .refused r => .refused r

/-- The state with these bytes at CPC, a run in progress and the host quiet, so that the next step fetches them. -/
def State.withCommandBytes (s : State) (bs : Bytes) : State :=
  { s.writeBytes s.cpc.toNat bs with busy := true, host := [] }

end Sys2Proof.Machine
end

