-- ==== Sys2Proof/Machine/Flags.lean ====
section
/-!
DEFINITION. The flags as the host sees them: the STATUS word (10_state.md R46), CTRL (R45) and the interrupt output
(R54); which accesses the MMIO block supports (R55), the host's windows (R111), and a host read of MEM (20_memory.md
R107).  A read changes nothing (R110); the first argument of one that may see a free value is the number of the
read.
-/

namespace Sys2Proof.Machine

/-- A flag as one bit. -/
def flagBit (b : Bool) : BitVec 1 := if b then 1#1 else 0#1

/-- STATUS.MACMODE (R46). -/
def MacMode.bits : MacMode → BitVec 2
  | .none => 0#2
  | .cmac => 1#2
  | .pmac => 2#2

/-- STATUS.STSTATE (R46). -/
def StState.bits : StState → BitVec 2
  | .idle => 0#2
  | .active => 1#2
  | .terminated => 2#2

/-- STATUS.STDIR (R46). -/
def stDirBit : Dir → BitVec 1
  | .enc => 0#1
  | .dec => 1#1

/-- The STATUS word that reflects the state exactly, bit 31 first (R46). -/
def State.statusExact (s : State) : Word :=
  0#11 ++ stDirBit s.stream.dir ++ s.stream.state.bits ++ flagBit s.s2v.act ++ BitVec.ofNat 5 s.acc.pos ++
    flagBit s.acc.fin ++ flagBit s.keys.ctrkey ++ s.keys.macmode.bits ++ 0#4 ++ flagBit s.corrupt ++ flagBit s.err ++
    flagBit s.done ++ flagBit s.busy

/-- The STATUS bits that read any value while BUSY = 1: 3 and 8 to 20 (R46). -/
def statusFreeMask : Word := 0x001FFF08#32

/-- STATUS as read number `n` sees it (R46). -/
def State.status (n : Nat) (s : State) : Word :=
  if s.busy then (s.statusExact &&& ~~~statusFreeMask) ||| (Config.busyStatus n &&& statusFreeMask)
  else s.statusExact

/-- The CTRL word: IRQEN in bit 8; the action bits and the reserved bits read 0 (R45). -/
def State.ctrl (s : State) : Word := 0#23 ++ flagBit s.irqen ++ 0#8

/-- The interrupt output, a level (R54, R469). -/
def State.irq (s : State) : Bool := s.irqen && (s.done || s.err)

/-- An MMIO access that the block supports: 4 bytes wide, aligned, inside the 256 bytes (R43, R55). -/
def mmioAccess (width off : Nat) : Bool := width == 4 && off % 4 == 0 && decide (off < 256)

/-- What a byte address of the host's address map reaches (R10, R111). -/
inductive BusTarget where
  | mem (addr : Nat)
  | mmio (off : Nat)
  | elsewhere
deriving DecidableEq, Repr

/-- The place of a host address: the two windows that the platform sets with P_MEM_BASE and P_MMIO_BASE (R10, R111). -/
def busTarget (p : Nat) : BusTarget :=
  if Config.mmioBase ≤ p ∧ p < Config.mmioBase + 256 then .mmio (p - Config.mmioBase)
  else if Config.memBase ≤ p ∧ p < Config.memBase + Config.memSize then .mem (p - Config.memBase)
  else .elsewhere

/-- What a host read of one byte of MEM returns: 0 during a run (R107). -/
def State.hostByte (s : State) (a : Nat) : Byte := if s.busy then 0#8 else s.byteAt a

end Sys2Proof.Machine
end

