-- ==== Sys2Proof/Machine/Sequencer.lean ====
section
/-!
DEFINITION. END and NOP (40_sequencer.md R183, R184).  Each command has a plan (what it does) and a meaning (the plan
carried out, with the command's length); END's length is 0, since CPC keeps its address.
-/

namespace Sys2Proof.Machine

/-- END: the run is over with DONE (R183). -/
def planEnd (s : State) : Plan := .go (Job.plain s { s with busy := false, done := true })

/-- NOP: nothing (R184). -/
def planNop (s : State) : Plan := .go (Job.plain s s)

/-- The meaning of END (R183). -/
def execEnd (s : State) : Host.Outcome State Fault Refusal := runPlan s 0 (planEnd s)

/-- The meaning of NOP (R184). -/
def execNop (s : State) : Host.Outcome State Fault Refusal := runPlan s 4 (planNop s)

end Sys2Proof.Machine
end

