-- ==== Sys2Proof/Machine/Stream.lean ====
section
/-!
DEFINITION. The STREAM commands (47_stream.md R420 to R426).
-/

namespace Sys2Proof.Machine

/-- STINIT (R422). -/
def planStinit (dir : Dir) (start : Word) (s : State) : Plan :=
  gated s <|
    if !legal start.toNat Config.prefixLen then .stop .addr s
    else if !s.keys.hasBoth then .stop .noKey s
    else
      .go (Job.plain s
        { s with stream := ⟨.active, dir, s.readBytes start.toNat Config.prefixLen, 0#32⟩ })

/-- STSTATE <- TERMINATED (R420). -/
def State.endStream (s : State) : State := { s with stream := { s.stream with state := .terminated } }

/-- The stream after a chunk that succeeded: terminated by the last one, else the counter advanced (R423, R424). -/
def State.nextChunk (chunk : Chunk) (s : State) : State :=
  match chunk with
  | .last => s.endStream
  | .more => { s with stream := { s.stream with ctr := s.stream.ctr + 1#32 } }

/-- The chunk may be processed in direction `dir`; else CHUNK_SEQUENCE (R426). -/
def State.streamReady (s : State) (dir : Dir) : Bool :=
  s.stream.state == .active && decide (s.stream.dir = dir)

/-- A chunk that is not the last at the last counter value; COUNTER_OVERFLOW (R425). -/
def State.ctrExhausted (s : State) (chunk : Chunk) : Bool :=
  decide (chunk = .more) && s.stream.ctr == 0xFFFFFFFF#32

/-- The AD strings of a chunk: its one AD string, then the nonce (R421, R423). -/
def State.chunkAds (s : State) (chunk : Chunk) (ad adlen : Word) : List Bytes :=
  [s.operand ad adlen, streamNonce s.stream.pfx s.stream.ctr chunk]

/-- STSEAL (R423). -/
def planStseal (chunk : Chunk) (ad adlen src len dst : Word) (s : State) : Plan :=
  gated s <|
    if !legalRange ad adlen then .stop .addr s
    else if !legalRange src len then .stop .addr s
    else if !legal dst.toNat (16 + len.toNat) then .stop .addr s
    else if !s.keys.hasBoth then .stop .noKey s
    else if !s.streamReady .enc then .stop .chunkSequence s
    else if s.ctrExhausted chunk then .stop .counterOverflow s.endStream
    else .go (sealJob (s.chunkAds chunk ad adlen) (s.operand src len) dst.toNat (State.nextChunk chunk) s)

/-- STOPEN (R424). -/
def planStopen (chunk : Chunk) (ad adlen src len dst : Word) (s : State) : Plan :=
  gated s <|
    if !legalRange ad adlen then .stop .addr s
    else if !legalRange src len then .stop .addr s
    else if !legal dst.toNat (openLen len.toNat) then .stop .addr s
    else if !s.keys.hasBoth then .stop .noKey s
    else if !s.streamReady .dec then .stop .chunkSequence s
    else if s.ctrExhausted chunk then .stop .counterOverflow s.endStream
    else if len.toNat < 16 then .stop .integrity s
    else .go (openJob (s.chunkAds chunk ad adlen) (s.operand src len) dst.toNat (State.nextChunk chunk) s)

/-- The meaning of STINIT (R422). -/
def execStinit (dir : Dir) (start : Word) (s : State) : Host.Outcome State Fault Refusal :=
  runPlan s 8 (planStinit dir start s)

/-- The meaning of STSEAL (R423). -/
def execStseal (chunk : Chunk) (ad adlen src len dst : Word) (s : State) : Host.Outcome State Fault Refusal :=
  runPlan s 24 (planStseal chunk ad adlen src len dst s)

/-- The meaning of STOPEN (R424). -/
def execStopen (chunk : Chunk) (ad adlen src len dst : Word) (s : State) : Host.Outcome State Fault Refusal :=
  runPlan s 24 (planStopen chunk ad adlen src len dst s)

end Sys2Proof.Machine
end

