-- ==== Sys2Proof/Machine/Bus.lean ====
section
/-!
DEFINITION. What the host does to the core (10_state.md R43 to R55, 20_memory.md R107, 40_sequencer.md R180, R187,
70_reset_and_hazards.md R500 to R502): writes of MMIO registers and of MEM, the two resets, and ABORT.
-/

namespace Sys2Proof.Machine

/-! ### The command in progress -/

/-- The plan of a command, for what an interruption leaves of it (R464, R502). -/
def planOf (i : Instr) (s : State) : Plan :=
  match i with
  | .endc => planEnd s
  | .nop => planNop s
  | .bclr rd => planBclr rd s
  | .bmov rd rs => planBmov rd rs s
  | .bxor rd rs => planBxor rd rs s
  | .bdbl rd rs => planBdbl rd rs s
  | .bld rd addr => planBld rd addr s
  | .bst rs addr => planBst rs addr s
  | .kimport mode addr len => planKimport mode addr len s
  | .kclear => planKclear s
  | .mreset => planMreset s
  | .mupdate addr len => planMupdate addr len s
  | .mfinish rd => planMfinish rd s
  | .s2vinit => planS2vinit s
  | .s2vad addr len => planS2vad addr len s
  | .s2vfin rd addr len => planS2vfin rd addr len s
  | .ivq rd rs => planIvq rd rs s
  | .ctrx rs src len dst => planCtrx rs src len dst s
  | .sivseal desc src len dst => planSivseal desc src len dst s
  | .sivopen desc src len dst => planSivopen desc src len dst s
  | .aeadseal desc nonce nlen src len dst => planAeadseal desc nonce nlen src len dst s
  | .aeadopen desc nonce nlen src len dst => planAeadopen desc nonce nlen src len dst s
  | .stinit dir start => planStinit dir start s
  | .stseal chunk ad adlen src len dst => planStseal chunk ad adlen src len dst s
  | .stopen chunk ad adlen src len dst => planStopen chunk ad adlen src len dst s

/-- The state where no command has written anything: the engines any value (R464 point 3). -/
def State.atBoundary (s : State) : State := s.loseEngines s.draws false

/-- What a plan leaves when it is stopped at an unspecified point: nothing written where a check would have failed
(R463, R464). -/
def Plan.interrupted (s : State) : Plan → State
  | .stop _ _ => s.atBoundary
  | .go j => j.interrupted

/-- The state at the unspecified point where an ABORT or a reset meets a run: the command at CPC in progress, certainly
so while a request is outstanding, or the boundary before it, as the draw says (R187, R502, U4). -/
def State.metInRun (s : State) : State :=
  if s.reqOut || Config.inCommand s.draws then
    match s.fetch with
    | .ok i => (planOf i s).interrupted s
    | .error _ => s.atBoundary
  else s.atBoundary

/-! ### ABORT and the resets -/

/-- ABORT during a run: engine state corrupted and ERR(ABORTED) at CPC (R187, R464). -/
def State.abort (s : State) : State := (s.metInRun.corrupted.abandon).trap .aborted

/-- The soft reset: MEM keeps its contents, but for what an interrupted command wrote of its destination (R501,
R502). -/
def State.softReset (s : State) : State :=
  let t := if s.busy then { s.metInRun with draws := s.draws + 1 } else s
  { State.reset with
    mem := t.mem
    epoch := t.epoch
    answers := t.abandon.answers
    reqs := t.reqs
    draws := t.draws
    host := t.host }

/-- The hard reset: every register at its reset value and every byte of MEM a new draw (R500, R119). -/
def State.hardReset (s : State) : State :=
  { State.reset with
    epoch := s.epoch + 1
    answers := s.abandon.answers
    reqs := s.reqs
    draws := s.draws + 1
    host := s.host }

/-! ### MMIO writes (R45, R46, R48) -/

/-- The action bits of a CTRL write without SRESET: during a run ABORT acts and GO is ignored, else GO acts and ABORT
is ignored (R45, R180, R187, R507). -/
def State.ctrlAction (s : State) (go abort : Bool) : State :=
  if s.busy then
    if abort then s.abort else s
  else if go then s.startRun
  else s

/-- A write of CTRL (R45). -/
def State.writeCtrl (s : State) (v : Word) : State :=
  if v.getLsbD 1 then s.softReset
  else State.ctrlAction { s with irqen := v.getLsbD 8 } (v.getLsbD 0) (v.getLsbD 2)

/-- A write of STATUS: one clears DONE or ERR, except during a run (R46). -/
def State.writeStatus (s : State) (v : Word) : State :=
  if s.busy then s else { s with done := s.done && !v.getLsbD 1, err := s.err && !v.getLsbD 2 }

/-- A write of CPTR: bits 1:0 stay 0, and nothing is written during a run (R48). -/
def State.writeCptr (s : State) (v : Word) : State :=
  if s.busy then s else { s with cptr := v &&& 0xFFFFFFFC#32 }

/-- A write of the register at an offset; every other register ignores it (R43, R53). -/
def State.mmioWrite (s : State) (off : Nat) (v : Word) : State :=
  match off with
  | 0x04 => s.writeCtrl v
  | 0x08 => s.writeStatus v
  | 0x10 => s.writeCptr v
  | _ => s

/-! ### The host's bus (R113) -/

/-- A host write of MEM. -/
def HostAct.writesMem : HostAct → Bool
  | .memWrite _ _ => true
  | .quiet => false
  | .mmioWrite _ _ _ => false
  | .hardReset => false

/-- A host write of the MMIO block, or a hard reset. -/
def HostAct.controls : HostAct → Bool
  | .mmioWrite _ _ _ => true
  | .hardReset => true
  | .quiet => false
  | .memWrite _ _ => false

/-- A write of CTRL with GO and without SRESET (R180). -/
def HostAct.goes : HostAct → Bool
  | .mmioWrite width off v => mmioAccess width off && off == 0x04 && v.getLsbD 0 && !v.getLsbD 1
  | .quiet => false
  | .memWrite _ _ => false
  | .hardReset => false

/-- For each GO of a list, the number of MEM writes before it; `n` of them stand before the list. -/
def memBeforeGo : Nat → List HostAct → List Nat
  | _, [] => []
  | n, a :: as =>
    if a.writesMem then memBeforeGo (n + 1) as
    else if a.goes then n :: memBeforeGo n as
    else memBeforeGo n as

/-- The actions that can reach the core when the host issues these; `State.host` holds what reaches it.
P_HOST_ORDERED says one thing: a MEM write issued before a GO arrives before it (R113).
DESIGN CHOICE (assumption 8): R113 leaves the rest open; the model keeps MEM writes in order among themselves, and
MMIO writes and hard resets among themselves, whatever P_HOST_ORDERED is, and lets the two kinds overtake each other in
every other way. -/
def arrivesAs (issued arrived : List HostAct) : Prop :=
  arrived.filter HostAct.writesMem = issued.filter HostAct.writesMem ∧
  arrived.filter HostAct.controls = issued.filter HostAct.controls ∧
  (Config.hostOrdered = true → List.Forall₂ (· ≤ ·) (memBeforeGo 0 issued) (memBeforeGo 0 arrived))

/-! ### The host's turn -/

/-- One action of the host (R30): an MMIO write of a width or at an offset the block does not support is ignored
(R55), and so is a write of MEM during a run (R107). -/
def State.hostAct (s : State) : HostAct → State
  | .quiet => s
  | .mmioWrite width off v => if mmioAccess width off then s.mmioWrite off v else s
  | .memWrite a b => if s.busy then s else s.setByte a b
  | .hardReset => s.hardReset

end Sys2Proof.Machine
end

