-- ==== Sys2Proof/Machine/Dispatch.lean ====
section
/-!
DEFINITION. One arm per command (30_encoding.md R148).
-/

namespace Sys2Proof.Machine

def exec (i : Instr) (s : State) : Host.Outcome State Fault Refusal :=
  match i with
  | .endc => Sys2Proof.Machine.execEnd s
  | .nop => Sys2Proof.Machine.execNop s
  | .bclr rd => Sys2Proof.Machine.execBclr rd s
  | .bmov rd rs => Sys2Proof.Machine.execBmov rd rs s
  | .bxor rd rs => Sys2Proof.Machine.execBxor rd rs s
  | .bdbl rd rs => Sys2Proof.Machine.execBdbl rd rs s
  | .bld rd addr => Sys2Proof.Machine.execBld rd addr s
  | .bst rs addr => Sys2Proof.Machine.execBst rs addr s
  | .kimport mode addr len => Sys2Proof.Machine.execKimport mode addr len s
  | .kclear => Sys2Proof.Machine.execKclear s
  | .mreset => Sys2Proof.Machine.execMreset s
  | .mupdate addr len => Sys2Proof.Machine.execMupdate addr len s
  | .mfinish rd => Sys2Proof.Machine.execMfinish rd s
  | .s2vinit => Sys2Proof.Machine.execS2vinit s
  | .s2vad addr len => Sys2Proof.Machine.execS2vad addr len s
  | .s2vfin rd addr len => Sys2Proof.Machine.execS2vfin rd addr len s
  | .ivq rd rs => Sys2Proof.Machine.execIvq rd rs s
  | .ctrx rs src len dst => Sys2Proof.Machine.execCtrx rs src len dst s
  | .sivseal desc src len dst => Sys2Proof.Machine.execSivseal desc src len dst s
  | .sivopen desc src len dst => Sys2Proof.Machine.execSivopen desc src len dst s
  | .aeadseal desc nonce nlen src len dst => Sys2Proof.Machine.execAeadseal desc nonce nlen src len dst s
  | .aeadopen desc nonce nlen src len dst => Sys2Proof.Machine.execAeadopen desc nonce nlen src len dst s
  | .stinit dir start => Sys2Proof.Machine.execStinit dir start s
  | .stseal chunk ad adlen src len dst => Sys2Proof.Machine.execStseal chunk ad adlen src len dst s
  | .stopen chunk ad adlen src len dst => Sys2Proof.Machine.execStopen chunk ad adlen src len dst s

end Sys2Proof.Machine
end

