-- ==== Sys2Proof/Machine/Step.lean ====
section
/-!
DEFINITION. One step of the machine: the host's next action, or one command of the sequencer (10_state.md R30,
40_sequencer.md R181).
-/

namespace Sys2Proof.Machine

/-- The sequencer's turn: the command at CPC executed and its address noted, or the error of its fetch raised, while a
run is in progress; nothing while BUSY = 0 (R181, R477). -/
def turn (s : State) : Host.Outcome State Fault Refusal :=
  if s.busy then
    match s.fetch with
    | .ok i => s.noted (exec i s)
    | .error e => .next (s.trap e)
  else .next s

/-- One step: where the host's list names an action it takes effect, between commands or inside the one at CPC (R187);
where it names none, or has ended, the sequencer has its turn. -/
def step (s : State) : Host.Outcome State Fault Refusal :=
  match s.host with
  | [] => turn s
  | .quiet :: rest => turn { s with host := rest }
  | a :: rest => .next (State.hostAct { s with host := rest } a)

/-- `s` with the command whose first `nbits` bits are `w` (in the opcode table's numbering) at CPC and a run in
progress, so that the next step runs it. -/
def State.withFetchWord (s : State) (nbits w : Nat) : State := s.withCommandBytes (tableBytes nbits w)

end Sys2Proof.Machine
end

