-- ==== Sys2Proof/Machine/Reads.lean ====
section
/-!
DEFINITION. The host's reads of the MMIO block (10_state.md R43 to R53, R55).  A read changes nothing (20_memory.md
R110); its first argument is the number of the read, for the values that are free during a run.
-/

namespace Sys2Proof.Machine

/-- The command of the run that is `n` steps on: the one at CPC where the run has gone so far, the last one it reaches
where it ends before (R49, R181). -/
def cpcAhead : Nat → State → Word
  | 0, s => s.cpc
  | n + 1, s =>
    match step s with
    | .next t => if t.busy then cpcAhead n t else s.cpc
    | .fault _ => s.cpc
    | .refused _ => s.cpc

/-- The address of command number `k` of the run, counted from the latest one completed back to its start, and then
from the one at CPC on (R49). -/
def State.runCommand (s : State) (k : Nat) : Word := (s.past[k]?).getD (cpcAhead (k - s.past.length) s)

/-- The CPC register as read number `n` sees it: exact while BUSY = 0, else the address of some command of the run
(R49, U9). -/
def State.cpcReg (n : Nat) (s : State) : Word := if s.busy then s.runCommand (Config.busyCpc n) else s.cpc

/-- The register at a word offset of the MMIO block (R43 to R53). -/
def State.mmioReg (n : Nat) (s : State) (off : Nat) : Word :=
  match off with
  | 0x00 => Config.coreId
  | 0x04 => s.ctrl
  | 0x08 => s.status n
  | 0x0C => s.errcode.setWidth 32
  | 0x10 => s.cptr
  | 0x14 => s.cpcReg n
  | 0x18 => s.errpc
  | 0x1C => s.stream.ctr
  | 0x20 => (BitVec.ofNat 8 s.s2v.nad).setWidth 32
  | _ => 0#32

/-- What a host read of the MMIO block returns (R43, R55). -/
def State.mmioRead (n : Nat) (s : State) (width off : Nat) : Word :=
  if mmioAccess width off then s.mmioReg n off else 0#32

end Sys2Proof.Machine
end

