-- ==== Sys2Proof/WellFormed.lean ====
section
/-!
DEFINITION. When a header word is well formed (30_encoding.md R144): the opcode is assigned, the Z field and every
unused field are zero, a used register field names BR0 to BR3, and FL holds only the bits its opcode defines.  The
operands of an `Instr` are typed, so an `Instr` can be nothing but well formed; the check is on headers.
-/

namespace Sys2Proof

/-- Whether a class uses the RD field (R145). -/
def HeaderClass.usesRd : HeaderClass → Bool
  | .d => true
  | .ds => true
  | _ => false

/-- Whether a class uses the RS field (R145). -/
def HeaderClass.usesRs : HeaderClass → Bool
  | .s => true
  | .ds => true
  | _ => false

/-- The FL bits a class defines: MODE is FL bits 1:0, FLAG is FL bit 0 (R145, R150, R151). -/
def HeaderClass.flBits : HeaderClass → Byte
  | .m => 0x03#8
  | .f => 0x01#8
  | _ => 0x00#8

/-! ### The five checks of R144 -/

/-- OPC is assigned. -/
def Header.opcodeAssigned (h : Word) : Bool := (Op.ofCode (Header.opc h)).isSome
/-- Z = 0. -/
def Header.zZero (h : Word) : Bool := Header.z h == 0#8
/-- Every register field the class does not use is 0. -/
def Header.unusedZero (c : HeaderClass) (h : Word) : Bool :=
  (c.usesRd || Header.rd h == 0#4) && (c.usesRs || Header.rs h == 0#4)
/-- Every register field the class uses is at most 3. -/
def Header.regsInRange (c : HeaderClass) (h : Word) : Bool :=
  (!c.usesRd || decide (Header.rd h ≤ 3#4)) && (!c.usesRs || decide (Header.rs h ≤ 3#4))
/-- FL has no bit set outside those the class defines. -/
def Header.flagsInRange (c : HeaderClass) (h : Word) : Bool := (Header.fl h &&& ~~~c.flBits) == 0#8

/-- A header is well formed (R144). -/
def Header.wellFormed (h : Word) : Bool :=
  match Op.ofCode (Header.opc h) with
  | none => false
  | some o =>
    Header.zZero h && Header.unusedZero o.cls h && Header.regsInRange o.cls h && Header.flagsInRange o.cls h

end Sys2Proof
end

