-- ==== Sys2Proof/Safety.lean ====
section
/-!
DEFINITION. The terms in which claims are made: the invariant of the core's state, the provider answering, and what
each command may write.
-/

namespace Sys2Proof.Machine

/-- What holds of the state at reset and after every step. -/
structure State.Inv (s : State) : Prop where
  /-- MEM has its canonical form. -/
  memWf : Memory.wf s.mem = true
  /-- CPC is a multiple of 4 (R106). -/
  cpcAligned : s.cpc.toNat % 4 = 0
  /-- CPTR is a multiple of 4 (R48). -/
  cptrAligned : s.cptr.toNat % 4 = 0
  /-- POS is 0 to 16 (R38). -/
  posLe : s.acc.pos ≤ 16
  /-- PCNT is 0 to 2^P_PMAC_LTAB - 1 (R39). -/
  pcntLt : s.acc.pcnt < 2 ^ Config.pmacLtab
  /-- NAD is 0 to P_MAX_AD (R40). -/
  nadLe : s.s2v.nad ≤ Config.maxAd
  /-- MACMODE is NONE exactly when MKEY is empty (R35). -/
  macKey : s.keys.macmode = .none ↔ s.keys.mkey = []
  /-- A CTR key comes with a MAC key only (R300). -/
  ctrKey : s.keys.macmode = .none → s.keys.ckey = []
  /-- MKEY has at most 32 bytes (R34). -/
  mkeyLen : s.keys.mkey.length ≤ 32
  /-- CKEY has at most 32 bytes (R34). -/
  ckeyLen : s.keys.ckey.length ≤ 32
  /-- PREFIX has P_PREFIX_LEN bytes (R41). -/
  pfxLen : s.stream.pfx.length = Config.prefixLen
  /-- During a run no outcome is recorded (R180, R466). -/
  running : s.busy = true → s.done = false ∧ s.err = false ∧ s.errcode = 0#8 ∧ s.errpc = 0#32
  /-- DONE and ERR are never both 1 (R469). -/
  oneOutcome : ¬(s.done = true ∧ s.err = true)
  /-- While ERR = 1 an error's code is recorded (R46, R460). -/
  errCode : s.err = true → s.errcode ≠ 0#8

/-- The provider grants the next `n` requests (R33); the list of its answers is the model's own (assumption 1). -/
def State.Grants (s : State) (n : Nat) : Prop := ∀ k, k < n → s.answer k = .ok

/-- P_PROVIDER_LIVE: every request is answered (R188). -/
def State.ProviderLive (s : State) : Prop := ∀ k, s.answer k ≠ .silent

/-- The block register a command writes (R32). -/
def target : Instr → Option BReg
  | .bclr rd => some rd
  | .bmov rd _ => some rd
  | .bxor rd _ => some rd
  | .bdbl rd _ => some rd
  | .bld rd _ => some rd
  | .mfinish rd => some rd
  | .s2vfin rd _ _ => some rd
  | .ivq rd _ => some rd
  | _ => none

/-- The first address and the length of a command's destination range (R153). -/
def destination : Instr → Nat × Nat
  | .bst _ addr => (addr.toNat, 16)
  | .ctrx _ _ len dst => (dst.toNat, len.toNat)
  | .sivseal _ _ len dst => (dst.toNat, 16 + len.toNat)
  | .sivopen _ _ len dst => (dst.toNat, openLen len.toNat)
  | .aeadseal _ _ _ _ len dst => (dst.toNat, 16 + len.toNat)
  | .aeadopen _ _ _ _ len dst => (dst.toNat, openLen len.toNat)
  | .stseal _ _ _ _ len dst => (dst.toNat, 16 + len.toNat)
  | .stopen _ _ _ _ len dst => (dst.toNat, openLen len.toNat)
  | _ => (0, 0)

/-- An address outside a command's destination range. -/
def outside (i : Instr) (a : Nat) : Prop := a < (destination i).1 ∨ (destination i).1 + (destination i).2 ≤ a

/-- The open-type commands (R18). -/
def opensMessage : Instr → Bool
  | .sivopen _ _ _ _ => true
  | .aeadopen _ _ _ _ _ _ => true
  | .stopen _ _ _ _ _ _ => true
  | _ => false

/-- A command that imports a key. -/
def importsKey : Instr → Bool
  | .kimport _ _ _ => true
  | _ => false

/-- A command that sets up or clears the stream counter (R420). -/
def restartsStream : Instr → Bool
  | .kimport _ _ _ => true
  | .kclear => true
  | .stinit _ _ => true
  | _ => false

/-- A command that writes STREAM state (R41, R420). -/
def writesStream : Instr → Bool
  | .kimport _ _ _ => true
  | .kclear => true
  | .stinit _ _ => true
  | .stseal _ _ _ _ _ _ => true
  | .stopen _ _ _ _ _ _ => true
  | _ => false

/-- A command that executes while CORRUPT = 1 (R189). -/
def runsCorrupt : Instr → Bool
  | .endc => true
  | .nop => true
  | .kclear => true
  | .kimport _ _ _ => true
  | _ => false

/-- Commands executed one after another, each from the state the one before left. -/
def execAll : List Instr → State → Host.Outcome State Fault Refusal
  | [], s => .next s
  | i :: is, s =>
    match exec i s with
    | .next t => execAll is t
    | .fault r => .fault r
    | .refused r => .refused r

end Sys2Proof.Machine
end

