-- ==== Sys2Proof/Certificates/Slice0/Obligations.lean ====
section
/-!
DEFINITION. The statements for the provers, each from numbered rules of the spec, and the closed forms of the spec that
they use.  Where a statement asks that requests are granted (`State.Grants`, with `State.spend` in its next state) it
speaks of the model's own list of the provider's answers (assumption 1); what Inv says of MEM is the model's own
canonical form (assumption 5).
-/

namespace Sys2Proof.Spec

open Sys2Proof.Machine

/-! ### Closed forms of the MAC engines (R233, R239, R264, R268, R269) -/

/-- `q` of R233: the blocks absorbed of a message of `n` bytes. -/
def absorbedOf (n : Nat) : Nat := if n = 0 then 0 else (n + 15) / 16 - 1

/-- `M_j` of R233, for `j ≥ 1`. -/
def messageBlock (m : Bytes) (j : Nat) : Block := blockOf ((m.drop (16 * (j - 1))).take 16)

/-- `C_j` of R233. -/
def chain (e : Block → Block) (m : Bytes) : Nat → Block
  | 0 => 0#128
  | j + 1 => e (chain e m j ^^^ messageBlock m (j + 1))

/-- `CMAC(m)` of R239. -/
def cmacOf (e : Block → Block) (k1 k2 : Block) (m : Bytes) : Block :=
  let q := absorbedOf m.length
  let last := m.drop (16 * q)
  let star := if m.length ≠ 0 ∧ last.length = 16 then blockOf last ^^^ k1 else blockOf (last ++ [0x80#8]) ^^^ k2
  e (chain e m q ^^^ star)

/-- `Z_i` of R264. -/
def offsetOf (k : Keys) : Nat → Block
  | 0 => 0#128
  | i + 1 => offsetOf k i ^^^ k.mask (ntz (i + 1))

/-- `⊕` over `i` from 1 to `n`. -/
def xorUpTo (f : Nat → Block) : Nat → Block
  | 0 => 0#128
  | n + 1 => xorUpTo f n ^^^ f (n + 1)

/-- `SUM` of R268 after `q` blocks of the message. -/
def checksumOf (e : Block → Block) (k : Keys) (m : Bytes) (q : Nat) : Block :=
  xorUpTo (fun i => e (messageBlock m i ^^^ offsetOf k i)) q

/-- `PMAC(m)` of R271. -/
def pmacOf (e : Block → Block) (k : Keys) (m : Bytes) : Block :=
  let q := absorbedOf m.length
  let last := m.drop (16 * q)
  if m.length ≠ 0 ∧ last.length = 16 then e (checksumOf e k m q ^^^ blockOf last ^^^ k.linv)
  else e (checksumOf e k m q ^^^ blockOf (last ++ [0x80#8]))

/-- `⊕` of those of the first `n` mask-table entries whose bit is 1 in `g` (R269). -/
def maskSum (k : Keys) (g : Nat) : Nat → Block
  | 0 => 0#128
  | n + 1 => maskSum k g n ^^^ (if g.testBit n then k.mask n else 0#128)

/-! ### Operand forms said again in the spec's words -/

/-- The MAC key that KIMPORT takes from the imported bytes (R301). -/
def macHalf (mode : KeyMode) (key : Bytes) : Bytes :=
  match mode with
  | .cmac => key
  | .pmac => key
  | .siv => key.take (key.length / 2)
  | .pmacsiv => key.take (key.length / 2)

/-- The CTR key that KIMPORT takes from the imported bytes (R301). -/
def ctrHalf (mode : KeyMode) (key : Bytes) : Bytes :=
  match mode with
  | .cmac => []
  | .pmac => []
  | .siv => key.drop (key.length / 2)
  | .pmacsiv => key.drop (key.length / 2)

/-- The key lengths a mode accepts (R301). -/
def lengthOk (mode : KeyMode) (n : Nat) : Prop :=
  match mode with
  | .cmac => Config.acceptsKeyLen n = true
  | .pmac => Config.acceptsKeyLen n = true
  | .siv => n % 2 = 0 ∧ Config.acceptsKeyLen (n / 2) = true
  | .pmacsiv => n % 2 = 0 ∧ Config.acceptsKeyLen (n / 2) = true

/-- A mode that loads a CTR key. -/
def isSiv (mode : KeyMode) : Bool := mode == .siv || mode == .pmacsiv

/-- A mode whose MAC is CMAC. -/
def isCmac (mode : KeyMode) : Bool := mode == .cmac || mode == .siv

/-- The final string's block or string T (R340 step 3). -/
def lastString (d : Block) (x : Bytes) : Bytes :=
  if 16 ≤ x.length then xorend x d else blockBytes (dbl d ^^^ padBlock x)

/-- `s2v_idle()` (R357). -/
def idleAcc (s : State) : Acc := macReset s.keys.macmode s.acc

/-- The AD list of a chunk with its nonce (R421, R423). -/
def chunkStrings (s : State) (chunk : Chunk) (ad adlen : Word) : List Bytes :=
  [s.operand ad adlen, s.stream.pfx ++ be32 s.stream.ctr ++ [if chunk = .last then 0x01#8 else 0x00#8]]

/-- The stream after a chunk that succeeded (R423). -/
def streamAfter (chunk : Chunk) (t : Stream) : Stream :=
  if chunk = .last then { t with state := .terminated } else { t with ctr := t.ctr + 1#32 }

/-- The bytes of MEM in state `t` are those of `s`, but for the string `v` at `a`. -/
def Stored (s t : State) (a : Nat) (v : Bytes) : Prop :=
  t.readBytes a v.length = v ∧ ∀ x, x < a ∨ a + v.length ≤ x → t.byteAt x = s.byteAt x

/-- The MAC and the CTR key are loaded (R354). -/
def BothKeys (s : State) : Prop := s.keys.macmode ≠ .none ∧ s.keys.ckey ≠ []

/-- The address of string `k` in the descriptor list at `desc` (R117). -/
def entryAddr (s : State) (desc : Word) (k : Nat) : Nat := (s.word (desc.toNat + 4 + 8 * k)).toNat

/-- The length of string `k` in the descriptor list at `desc` (R117). -/
def entryLen (s : State) (desc : Word) (k : Nat) : Nat := (s.word (desc.toNat + 8 + 8 * k)).toNat

/-- The range lies in MEM (R102). -/
def InMem (r : Nat × Nat) : Prop := r.1 + r.2 ≤ Config.memSize

/-- The outcome `o` of a whole-message command whose AD list has been read, where a check fails (R462): ADDR where one
of the operand ranges is not in MEM, then NO_KEY, then AD_LIMIT above 126 AD strings, then INTEGRITY for a sealed input
that is too short; each with nothing changed but the trap record (R463). -/
def ChecksInOrder (s : State) (o : Host.Outcome State Fault Refusal) (ranges : List (Nat × Nat)) (strings : Nat)
    (short : Prop) : Prop :=
  ((∃ r ∈ ranges, ¬InMem r) → o = .next (s.trap .addr)) ∧
  ((∀ r ∈ ranges, InMem r) →
    (¬BothKeys s → o = .next (s.trap .noKey)) ∧
    (BothKeys s → 126 < strings → o = .next (s.trap .adLimit)) ∧
    (BothKeys s → strings ≤ 126 → short → o = .next (s.trap .integrity)))

/-- In the destination of command `i`, interrupted in `s`, state `t` holds what R464 points 5 and 6 allow: for an
open-type command each byte is unchanged or 0, for any other unchanged or what a run of `i` that completes leaves. -/
def PartlyWritten (i : Instr) (s t : State) : Prop :=
  (∀ a, outside i a → t.byteAt a = s.byteAt a) ∧
  (opensMessage i = true → ∀ a, t.byteAt a = s.byteAt a ∨ t.byteAt a = 0#8) ∧
  (opensMessage i = false → ∀ (answers : List Answer) (u : State),
    exec i { s with answers := answers } = .next u → u.err = s.err → u.cpc ≠ s.cpc →
    ∀ a, t.byteAt a = s.byteAt a ∨ t.byteAt a = u.byteAt a)

/-- The run in progress in `s` goes on, step by step, to `t`. -/
inductive RunReaches (s : State) : State → Prop where
  | here : RunReaches s s
  | later {t u : State} : RunReaches s t → step t = .next u → u.busy = true → RunReaches s u

/-- The requests of a whole-message command over the AD strings `ads` and `n` bytes of plaintext: `n + 1` MAC1 calls
(R340) and one Ctr where there is plaintext (R348, R352). -/
def messageReqs (ads : List Bytes) (n : Nat) : Nat :=
  mac1Reqs 16 + (ads.map fun a => mac1Reqs a.length).sum + mac1Reqs (max 16 n) + (if n = 0 then 0 else 1)

end Sys2Proof.Spec

open Sys2Proof Sys2Proof.Machine Sys2Proof.Spec

/-! ### Encoding -/

/-- Words written out in the spec decode as the spec says (95_test_vectors.md 3.1, 30_encoding.md R154). -/
def Obligations.SpecWordsDecode : Prop :=
  decode [0x13#8, 0x10#8, 0#8, 0#8] = .ok (.bdbl .b1 .b0, []) ∧
  decode [0x13#8, 0x50#8, 0#8, 0#8] = .error .illegal ∧
  decode [0x10#8, 0x01#8, 0#8, 0#8] = .error .illegal ∧
  decode [0x12#8, 0x22#8, 0#8, 0#8] = .ok (.bxor .b2 .b2, []) ∧
  decode [0x43#8, 0x33#8, 0#8, 0#8] = .ok (.ivq .b3 .b3, []) ∧
  decode [0x32#8, 0x30#8, 0#8, 0#8] = .ok (.mfinish .b3, []) ∧
  decode [0x20#8, 0#8, 0x02#8, 0#8, 0#8, 0#8, 0x02#8, 0#8, 0#8, 0#8, 0#8, 0x20#8] =
    .ok (.kimport .siv 0x200#32 32#32, []) ∧
  decode [0x20#8, 0#8, 0x04#8, 0#8, 0#8, 0#8, 0#8, 0#8, 0#8, 0#8, 0#8, 0#8] = .error .illegal ∧
  decode [0x44#8, 0x10#8, 0#8, 0#8] = .error .illegal ∧
  decode [0x60#8, 0#8, 0x01#8, 0#8, 0#8, 0#8, 0x03#8, 0x80#8] = .ok (.stinit .dec 0x380#32, []) ∧
  decode [0x61#8, 0#8, 0x01#8, 0x01#8] = .error .illegal ∧
  decode [0#8, 0#8, 0#8, 0#8] = .error .illegal

/-- Decoding undoes encoding, for every command at every operand, whatever bytes follow it. -/
def Obligations.DecodeInvertsEncode : Prop :=
  ∀ (i : Instr) (rest : List Byte), decode (encode i ++ rest) = .ok (i, rest)

/-- Encoding undoes decoding: a byte string that decodes is the command's own bytes and the rest. -/
def Obligations.EncodeInvertsDecode : Prop :=
  ∀ (bs : List Byte) (i : Instr) (rest : List Byte), decode bs = .ok (i, rest) → bs = encode i ++ rest

/-- A header decodes exactly when it is well formed, and one that is not raises ILLEGAL, whatever operand words follow
(R144); the reserved opcodes are those of R149. -/
def Obligations.IllFormedHeaderIsIllegal : Prop :=
  (∀ h : Word, (decodeHeader h).isSome = Header.wellFormed h) ∧
  (∀ b : Byte, Op.ofCode b = none ↔
    b = 0x00#8 ∨ (0x03#8 ≤ b ∧ b ≤ 0x0F#8) ∨ (0x16#8 ≤ b ∧ b ≤ 0x1F#8) ∨ (0x22#8 ≤ b ∧ b ≤ 0x2F#8) ∨
    (0x33#8 ≤ b ∧ b ≤ 0x3F#8) ∨ (0x47#8 ≤ b ∧ b ≤ 0x4F#8) ∨ (0x52#8 ≤ b ∧ b ≤ 0x5F#8) ∨ 0x63#8 ≤ b) ∧
  ∀ s : State, s.host = [] → s.busy = true → s.cpc.toNat + 4 ≤ Config.memSize →
    Header.wellFormed (s.word s.cpc.toNat) = false → step s = .next (s.trap .illegal)

/-! ### Reset, the step and the invariant -/

/-- What the resets leave (R57, R500, R501): every register at its reset value; a soft reset of an idle core keeps MEM,
and one that meets a run keeps every byte outside the destination of the command at CPC, which holds what R464 points 5
and 6 allow (R502).  The platform's hard reset and a CTRL write with SRESET = 1 leave that state.
That the hard-reset bytes of MEM are the draw `Config.powerOnByte` is the model's form of "unspecified" (assumption
5); the list of the host's actions is the model's own (assumption 4). -/
def Obligations.ResetsLeaveSpecValues : Prop :=
  (∀ s t : State, (t = State.reset ∨ t = s.hardReset ∨ t = s.softReset) →
    (∀ r, t.getBr r = 0#128) ∧ t.keys.mkey = [] ∧ t.keys.ckey = [] ∧ t.keys.macmode = .none ∧
    t.keys.k1 = 0#128 ∧ t.keys.k2 = 0#128 ∧ (∀ i, t.keys.mask i = 0#128) ∧ t.keys.linv = 0#128 ∧
    t.acc.buf = 0#128 ∧ t.acc.dig = 0#128 ∧ t.acc.off = 0#128 ∧ t.acc.sum = 0#128 ∧
    t.acc.pos = 0 ∧ t.acc.pcnt = 0 ∧ t.acc.fin = false ∧
    t.s2v.act = false ∧ t.s2v.d = 0#128 ∧ t.s2v.nad = 0 ∧
    t.stream.state = .idle ∧ t.stream.dir = .enc ∧ t.stream.pfx = List.replicate 8 0#8 ∧ t.stream.ctr = 0#32 ∧
    t.busy = false ∧ t.done = false ∧ t.err = false ∧ t.corrupt = false ∧
    t.cpc = 0#32 ∧ t.cptr = 0#32 ∧ t.errpc = 0#32 ∧ t.errcode = 0#8 ∧ t.irqen = false ∧ t.irq = false ∧
    t.reqOut = false ∧
    (t = s.hardReset → ∀ a, t.byteAt a = Config.powerOnByte (s.epoch + 1) a) ∧
    (t = s.softReset → s.busy = false → ∀ a, t.byteAt a = s.byteAt a) ∧
    (t = s.softReset → s.busy = true →
      (∀ i, s.fetch = .ok i → PartlyWritten i s t) ∧
      (∀ e, s.fetch = .error e → ∀ a, t.byteAt a = s.byteAt a))) ∧
  ∀ (s : State) (v : Word) (later : List HostAct),
    (s.host = .hardReset :: later → step s = .next (State.hardReset { s with host := later })) ∧
    (s.host = .mmioWrite 4 0x04 v :: later → v.getLsbD 1 = true →
      step s = .next (State.softReset { s with host := later }))

/-- The invariant holds at reset. -/
def Obligations.ResetMeetsInv : Prop := State.reset.Inv

/-- Every step keeps the invariant. -/
def Obligations.StepKeepsInv : Prop := ∀ s t : State, s.Inv → step s = .next t → t.Inv

/-- A step with the host quiet executes the command that the bytes at CPC decode to, and notes its address among those
of the run's completed commands where the run goes on past it (assumption 12); while BUSY = 0 it changes nothing (R181,
R477).  The list of the host's actions is the model's own (assumption 4). -/
def Obligations.StepRunsDecodedCommand : Prop :=
  ∀ (s : State) (later : List HostAct),
    (∀ (i : Instr) (rest : List Byte), s.busy = true → decode s.window = .ok (i, rest) →
      (s.host = [] → ∃ t, exec i s = .next t ∧
        step s = .next { t with past := if t.busy = true ∧ t.cpc ≠ s.cpc then s.cpc :: t.past else t.past }) ∧
      (s.host = .quiet :: later → ∃ t, exec i { s with host := later } = .next t ∧
        step s = .next { t with past := if t.busy = true ∧ t.cpc ≠ s.cpc then s.cpc :: t.past else t.past })) ∧
    (s.busy = false →
      (s.host = [] → step s = .next s) ∧ (s.host = .quiet :: later → step s = .next { s with host := later }))

/-- The bytes a fetch reads are those of MEM from CPC on, up to the longest command and the end of MEM; a header or
operand words past the end of MEM raise FETCH (R102, R181). -/
def Obligations.FetchOutsideMemTraps : Prop :=
  ∀ s : State, s.host = [] → s.busy = true →
    (Config.memSize < s.cpc.toNat + 4 → step s = .next (s.trap .fetch)) ∧
    (∀ o f, s.cpc.toNat + 4 ≤ Config.memSize → decodeHeader (s.word s.cpc.toNat) = some (o, f) →
      Config.memSize < s.cpc.toNat + 4 + 4 * o.k → step s = .next (s.trap .fetch))

/-- The trap entry records the error's code and the address at CPC, sets ERR and ends the run, and changes nothing else
(R466); the codes are those of R460. -/
def Obligations.TrapEntryRecordsError : Prop :=
  (∀ (s : State) (e : Err),
    s.trap e = { s with errcode := e.code, errpc := s.cpc, err := true, busy := false }) ∧
  [Err.illegal, .fetch, .addr, .align, .invalidKey, .noKey, .sequence, .pmacLimit, .adLimit].map Err.code =
    [0x01#8, 0x02#8, 0x03#8, 0x04#8, 0x10#8, 0x11#8, 0x12#8, 0x13#8, 0x14#8] ∧
  [Err.integrity, .chunkSequence, .counterOverflow, .providerFault, .aborted, .corruptState].map Err.code =
    [0x20#8, 0x30#8, 0x31#8, 0x40#8, 0x41#8, 0x42#8]

/-! ### END, NOP and the block unit -/

/-- END ends the run with DONE, and CPC keeps its address (R183); NOP only moves CPC (R184). -/
def Obligations.EndEndsRunAndNopAdvances : Prop :=
  Instr.endc.words = [0x01000000#32] ∧ Instr.nop.words = [0x02000000#32] ∧
  ∀ s : State,
    exec .endc s = .next { s with busy := false, done := true } ∧ exec .nop s = .next { s with cpc := s.cpc + 4#32 }

/-- BCLR clears its register and changes nothing else (R205). -/
def Obligations.BclrClearsRegister : Prop :=
  ∀ rd : BReg, (Instr.bclr rd).words = [0x10000000#32 ||| (rd.bits.setWidth 32 <<< 20)] ∧
  ∀ s : State, s.corrupt = false →
    ∃ b : BRegs, exec (.bclr rd) s = .next { s with br := b, cpc := s.cpc + 4#32 } ∧
      b.get rd = 0#128 ∧ ∀ r, r ≠ rd → b.get r = s.getBr r

/-- BMOV copies a register and changes nothing else (R206). -/
def Obligations.BmovCopiesRegister : Prop :=
  ∀ rd rs : BReg,
  (Instr.bmov rd rs).words = [0x11000000#32 ||| (rd.bits.setWidth 32 <<< 20) ||| (rs.bits.setWidth 32 <<< 16)] ∧
  ∀ s : State, s.corrupt = false →
    ∃ b : BRegs, exec (.bmov rd rs) s = .next { s with br := b, cpc := s.cpc + 4#32 } ∧
      b.get rd = s.getBr rs ∧ ∀ r, r ≠ rd → b.get r = s.getBr r

/-- BXOR is bytewise exclusive-or of two registers into the first (R207, R12). -/
def Obligations.BxorXorsRegisters : Prop :=
  ∀ rd rs : BReg,
  (Instr.bxor rd rs).words = [0x12000000#32 ||| (rd.bits.setWidth 32 <<< 20) ||| (rs.bits.setWidth 32 <<< 16)] ∧
  ∀ s : State, s.corrupt = false →
    ∃ b : BRegs, exec (.bxor rd rs) s = .next { s with br := b, cpc := s.cpc + 4#32 } ∧
      (∀ i, i < 16 → blockByte (b.get rd) i = blockByte (s.getBr rd) i ^^^ blockByte (s.getBr rs) i) ∧
      (rd = rs → b.get rd = 0#128) ∧ ∀ r, r ≠ rd → b.get r = s.getBr r

/-- BDBL writes the doubled register: the arithmetic form of R200 on its value (R208). -/
def Obligations.BdblDoublesRegister : Prop :=
  ∀ rd rs : BReg,
  (Instr.bdbl rd rs).words = [0x13000000#32 ||| (rd.bits.setWidth 32 <<< 20) ||| (rs.bits.setWidth 32 <<< 16)] ∧
  ∀ s : State, s.corrupt = false →
    ∃ b : BRegs, exec (.bdbl rd rs) s = .next { s with br := b, cpc := s.cpc + 4#32 } ∧
      (b.get rd).toNat =
        (2 * (s.getBr rs).toNat % 2 ^ 128) ^^^ (if 2 ^ 127 ≤ (s.getBr rs).toNat then 0x87 else 0) ∧
      ∀ r, r ≠ rd → b.get r = s.getBr r

/-- BLD loads the 16 bytes at its address, byte 0 from the lowest, or raises ADDR with nothing changed (R209). -/
def Obligations.BldLoadsBlock : Prop :=
  ∀ (rd : BReg) (addr : Word), (Instr.bld rd addr).words = [0x14000000#32 ||| (rd.bits.setWidth 32 <<< 20), addr] ∧
  ∀ s : State, s.corrupt = false →
    (addr.toNat + 16 ≤ Config.memSize →
      ∃ b : BRegs, exec (.bld rd addr) s = .next { s with br := b, cpc := s.cpc + 8#32 } ∧
        (∀ i, i < 16 → blockByte (b.get rd) i = s.byteAt (addr.toNat + i)) ∧ ∀ r, r ≠ rd → b.get r = s.getBr r) ∧
    (Config.memSize < addr.toNat + 16 → exec (.bld rd addr) s = .next (s.trap .addr))

/-- BST stores a register's 16 bytes, byte 0 at the lowest address, or raises ADDR with nothing written (R210). -/
def Obligations.BstStoresBlock : Prop :=
  ∀ (rs : BReg) (addr : Word), (Instr.bst rs addr).words = [0x15000000#32 ||| (rs.bits.setWidth 32 <<< 16), addr] ∧
  ∀ s : State, s.corrupt = false →
    (addr.toNat + 16 ≤ Config.memSize →
      ∃ t m, exec (.bst rs addr) s = .next t ∧ t = { s with mem := m, cpc := s.cpc + 8#32 } ∧
        (∀ i, i < 16 → t.byteAt (addr.toNat + i) = blockByte (s.getBr rs) i) ∧
        ∀ x, x < addr.toNat ∨ addr.toNat + 16 ≤ x → t.byteAt x = s.byteAt x) ∧
    (Config.memSize < addr.toNat + 16 → exec (.bst rs addr) s = .next (s.trap .addr))

/-- The doubler byte by byte: bytes 0 to 14 are a pure shift, byte 15 alone takes the constant (R201). -/
def Obligations.DoublerBytewise : Prop :=
  ∀ b : Block,
    (∀ i, i < 15 →
      blockByte (dbl b) i = (blockByte b i <<< 1) ||| (blockByte b (i + 1) >>> 7)) ∧
    blockByte (dbl b) 15 =
      (blockByte b 15 <<< 1) ^^^ (if blockByte b 0 >>> 7 = 1#8 then 0x87#8 else 0#8)

/-- `halve` is the inverse of `dbl` in both orders (R203), `dbl` is linear over XOR, and it is no involution (R202). -/
def Obligations.DoublerIsLinearBijection : Prop :=
  (∀ b, halve (dbl b) = b) ∧ (∀ b, dbl (halve b) = b) ∧
  (∀ b, halve b = (b >>> 1) ^^^ (if b.getLsbD 0 = true then 0x80000000000000000000000000000043#128 else 0#128)) ∧
  (∀ b c, dbl (b ^^^ c) = dbl b ^^^ dbl c) ∧ dbl 0#128 = 0#128 ∧ ∀ b, b ≠ 0#128 → dbl (dbl b) ≠ b

/-! ### Keys -/

/-- KIMPORT of an accepted key clears the engines and loads the key and what is derived from it (R300 to R302). -/
def Obligations.KimportLoadsKey : Prop :=
  ∀ (mode : KeyMode) (addr len : Word) (s : State), addr.toNat + len.toNat ≤ Config.memSize →
    lengthOk mode len.toNat → s.Grants (if isSiv mode then 3 else 2) →
    let key := s.readBytes addr.toNat len.toNat
    let l := Config.bc (macHalf mode key) 0#128
    ∃ k : Keys,
      exec (.kimport mode addr len) s =
        .next { s.spend (if isSiv mode then 3 else 2) with
          keys := k, acc := Acc.cleared, s2v := S2v.cleared, stream := Stream.cleared, corrupt := false,
          cpc := s.cpc + 12#32 } ∧
      k.mkey = macHalf mode key ∧ k.ckey = ctrHalf mode key ∧
      (isCmac mode = true →
        k.macmode = .cmac ∧ k.k1 = dbl l ∧ k.k2 = dbl (dbl l) ∧ (∀ i, k.mask i = 0#128) ∧ k.linv = 0#128) ∧
      (isCmac mode = false →
        k.macmode = .pmac ∧ k.k1 = 0#128 ∧ k.k2 = 0#128 ∧ k.mask 0 = l ∧
        (∀ i, i + 1 < Config.pmacLtab → k.mask (i + 1) = dbl (k.mask i)) ∧ dbl k.linv = l)

/-- KIMPORT outside MEM changes nothing; of a length not accepted it raises INVALID_KEY with every key cleared and no
provider request (R300, R301). -/
def Obligations.KimportRejectsKey : Prop :=
  ∀ (mode : KeyMode) (addr len : Word) (s : State),
    (Config.memSize < addr.toNat + len.toNat → exec (.kimport mode addr len) s = .next (s.trap .addr)) ∧
    (addr.toNat + len.toNat ≤ Config.memSize → ¬lengthOk mode len.toNat →
      exec (.kimport mode addr len) s =
        .next (State.trap { s with
          keys := Keys.cleared, acc := Acc.cleared, s2v := S2v.cleared, stream := Stream.cleared,
          corrupt := false } .invalidKey))

/-- KCLEAR clears all key and engine state and CORRUPT, in any state, and leaves the block registers and MEM (R303,
R299). -/
def Obligations.KclearZeroizes : Prop :=
  Instr.kclear.words = [0x21000000#32] ∧
  ∀ s : State, exec .kclear s =
    .next { s with
      keys := ⟨[], [], .none, 0#128, 0#128, Vector.replicate 31 0#128, 0#128⟩,
      acc := ⟨0#128, 0, false, 0#128, 0#128, 0#128, 0⟩, s2v := ⟨false, 0#128, 0⟩,
      stream := ⟨.idle, .enc, List.replicate 8 0#8, 0#32⟩, corrupt := false, cpc := s.cpc + 4#32 }

/-! ### MAC commands -/

/-- MRESET clears the accumulator under a MAC key (PMAC's own fields in PMAC mode) and needs one (R304). -/
def Obligations.MresetStartsMessage : Prop :=
  Instr.mreset.words = [0x30000000#32] ∧
  ∀ s : State, s.corrupt = false →
    (s.keys.macmode = .cmac → exec .mreset s =
      .next { s with acc := ⟨0#128, 0, false, 0#128, s.acc.off, s.acc.sum, s.acc.pcnt⟩, cpc := s.cpc + 4#32 }) ∧
    (s.keys.macmode = .pmac → exec .mreset s =
      .next { s with acc := ⟨0#128, 0, false, 0#128, 0#128, 0#128, 0⟩, cpc := s.cpc + 4#32 }) ∧
    (s.keys.macmode = .none → exec .mreset s = .next (s.trap .noKey))

/-- MFINISH writes the digest of the last block, cached with FIN, or the cached digest with no request; the accumulator
keeps BUF and POS (R306, R236, R237, R267). -/
def Obligations.MfinishWritesDigest : Prop :=
  ∀ (rd : BReg) (s : State), s.corrupt = false →
    (s.keys.macmode = .none → exec (.mfinish rd) s = .next (s.trap .noKey)) ∧
    (s.keys.macmode ≠ .none → s.acc.fin = true →
      ∃ b : BRegs, exec (.mfinish rd) s = .next { s with br := b, cpc := s.cpc + 4#32 } ∧
        b.get rd = s.acc.dig ∧ ∀ r, r ≠ rd → b.get r = s.getBr r) ∧
    (s.keys.macmode ≠ .none → s.acc.fin = false → s.Grants 1 →
      ∃ (b : BRegs) (last : Block),
        exec (.mfinish rd) s =
          .next { s.spend 1 with
            br := b, acc := { s.acc with dig := Config.bc s.keys.mkey last, fin := true }, cpc := s.cpc + 4#32 } ∧
        b.get rd = Config.bc s.keys.mkey last ∧ (∀ r, r ≠ rd → b.get r = s.getBr r) ∧
        (s.keys.macmode = .cmac → s.acc.pos < 16 →
          last = s.acc.buf ^^^ s.keys.k2 ^^^ blockOf (List.replicate s.acc.pos 0#8 ++ [0x80#8])) ∧
        (s.keys.macmode = .cmac → 16 ≤ s.acc.pos → last = s.acc.buf ^^^ s.keys.k1) ∧
        (s.keys.macmode = .pmac → s.acc.pos = 16 → last = s.acc.sum ^^^ s.acc.buf ^^^ s.keys.linv) ∧
        (s.keys.macmode = .pmac → s.acc.pos < 16 →
          last = s.acc.sum ^^^ blockOf ((blockBytes s.acc.buf).take s.acc.pos ++ [0x80#8])))

/-- MUPDATE's checks in the order of R305 (R238, R270), each with nothing changed; past them it absorbs its bytes, with
one request for each block absorbed, and changes nothing but the accumulator. -/
def Obligations.MupdateAbsorbs : Prop :=
  ∀ (addr len : Word) (s : State), s.corrupt = false →
    let b := if s.acc.pos + len.toNat ≤ 16 then 0 else (s.acc.pos + len.toNat + 15) / 16 - 1
    (Config.memSize < addr.toNat + len.toNat → exec (.mupdate addr len) s = .next (s.trap .addr)) ∧
    (addr.toNat + len.toNat ≤ Config.memSize →
      (s.keys.macmode = .none → exec (.mupdate addr len) s = .next (s.trap .noKey)) ∧
      (s.keys.macmode ≠ .none → s.acc.fin = true → exec (.mupdate addr len) s = .next (s.trap .sequence)) ∧
      (s.keys.macmode = .pmac → s.acc.fin = false → 2 ^ 31 - 1 < s.acc.pcnt + b →
        exec (.mupdate addr len) s = .next (s.trap .pmacLimit)) ∧
      (s.keys.macmode ≠ .none → s.acc.fin = false → (s.keys.macmode = .pmac → s.acc.pcnt + b ≤ 2 ^ 31 - 1) →
        s.Grants b →
        exec (.mupdate addr len) s =
          .next { s.spend b with
            acc := macUpdate (Config.bc s.keys.mkey) s.keys s.acc (s.readBytes addr.toNat len.toNat),
            cpc := s.cpc + 12#32 }))

/-- CMAC after a reset and any updates: POS and BUF depend on the whole message only, in the closed form of R233. -/
def Obligations.CmacBufferClosedForm : Prop :=
  ∀ (e : Block → Block) (a : Acc) (parts : List Bytes),
    let m := parts.flatten
    let q := absorbedOf m.length
    let t := parts.foldl (cmacUpdate e) (cmacReset a)
    t.pos = m.length - 16 * q ∧ t.buf = chain e m q ^^^ blockOf (m.drop (16 * q)) ∧
    t.fin = false ∧ t.dig = 0#128 ∧ t.off = a.off ∧ t.sum = a.sum ∧ t.pcnt = a.pcnt

/-- An update may be split anywhere: in both engines the state and the number of requests are those of one update
(R235, R266). -/
def Obligations.UpdatesMaySplit : Prop :=
  ∀ (e : Block → Block) (k : Keys) (a : Acc) (x y : Bytes), a.pos ≤ 16 →
    macUpdate e k (macUpdate e k a x) y = macUpdate e k a (x ++ y) ∧
    absorbed a.pos x.length + absorbed (macUpdate e k a x).pos y.length = absorbed a.pos (x ++ y).length

/-- The one-shot CMAC and PMAC are their closed forms (R239, R271). -/
def Obligations.OneShotMacClosedForms : Prop :=
  ∀ (e : Block → Block) (k : Keys) (m : Bytes),
    (k.macmode = .cmac → mac1 e k m = cmacOf e k.k1 k.k2 m) ∧ (k.macmode = .pmac → mac1 e k m = pmacOf e k m)

/-- PMAC after a reset and any list of updates: the offset is that of R264 and the checksum that of R268 on the
concatenated message, and POS and the pending bytes are those of R266. -/
def Obligations.PmacChecksumClosedForm : Prop :=
  ∀ (e : Block → Block) (k : Keys) (a : Acc) (parts : List Bytes),
    let m := parts.flatten
    let q := absorbedOf m.length
    let t := parts.foldl (pmacUpdate e k) (pmacReset a)
    t.pcnt = q ∧ t.off = offsetOf k q ∧ t.sum = checksumOf e k m q ∧ t.pos = m.length - 16 * q ∧
    (blockBytes t.buf).take t.pos = m.drop (16 * q)

/-- The offset of block `i` is the sum of the mask-table entries at the bits of its Gray code (R269). -/
def Obligations.PmacOffsetsAreGrayCode : Prop :=
  ∀ (k : Keys) (i : Nat), i < 2 ^ Config.pmacLtab → offsetOf k i = maskSum k (i ^^^ (i >>> 1)) Config.pmacLtab

/-! ### S2V, counter mode and SIV -/

/-- S2VINIT starts an S2V with D the MAC of the zero block (R344). -/
def Obligations.S2vinitStarts : Prop :=
  Instr.s2vinit.words = [0x40000000#32] ∧
  ∀ s : State, s.corrupt = false →
    (s.keys.macmode = .none → exec .s2vinit s = .next (s.trap .noKey)) ∧
    (s.keys.macmode ≠ .none → s.Grants 1 →
      exec .s2vinit s =
        .next { s.spend 1 with
          acc := idleAcc s,
          s2v := ⟨true, mac1 (Config.bc s.keys.mkey) s.keys (List.replicate 16 0#8), 0⟩,
          cpc := s.cpc + 4#32 })

/-- S2VAD absorbs one AD string, the empty one too; its checks come in the order of R345. -/
def Obligations.S2vadAbsorbs : Prop :=
  ∀ (addr len : Word) (s : State), s.corrupt = false →
    (Config.memSize < addr.toNat + len.toNat → exec (.s2vad addr len) s = .next (s.trap .addr)) ∧
    (addr.toNat + len.toNat ≤ Config.memSize →
      (s.keys.macmode = .none → exec (.s2vad addr len) s = .next (s.trap .noKey)) ∧
      (s.keys.macmode ≠ .none → s.s2v.act = false → exec (.s2vad addr len) s = .next (s.trap .sequence)) ∧
      (s.keys.macmode ≠ .none → s.s2v.act = true → s.s2v.nad = 126 →
        exec (.s2vad addr len) s = .next (s.trap .adLimit)) ∧
      (s.keys.macmode ≠ .none → s.s2v.act = true → s.s2v.nad ≠ 126 → s.Grants (mac1Reqs len.toNat) →
        exec (.s2vad addr len) s =
          .next { s.spend (mac1Reqs len.toNat) with
            acc := idleAcc s,
            s2v := ⟨true, dbl s.s2v.d ^^^ mac1 (Config.bc s.keys.mkey) s.keys (s.readBytes addr.toNat len.toNat),
              s.s2v.nad + 1⟩,
            cpc := s.cpc + 12#32 }))

/-- S2VFIN writes the MAC of T to its register and ends the S2V; its checks come in the order of R346. -/
def Obligations.S2vfinWritesTag : Prop :=
  ∀ (rd : BReg) (addr len : Word) (s : State), s.corrupt = false →
    (Config.memSize < addr.toNat + len.toNat → exec (.s2vfin rd addr len) s = .next (s.trap .addr)) ∧
    (addr.toNat + len.toNat ≤ Config.memSize →
      (s.keys.macmode = .none → exec (.s2vfin rd addr len) s = .next (s.trap .noKey)) ∧
      (s.keys.macmode ≠ .none → s.s2v.act = false → exec (.s2vfin rd addr len) s = .next (s.trap .sequence)) ∧
      (s.keys.macmode ≠ .none → s.s2v.act = true → s.Grants (mac1Reqs (max 16 len.toNat)) →
        ∃ b : BRegs,
          exec (.s2vfin rd addr len) s =
            .next { s.spend (mac1Reqs (max 16 len.toNat)) with
              br := b, acc := idleAcc s, s2v := ⟨false, 0#128, 0⟩, cpc := s.cpc + 12#32 } ∧
          b.get rd =
            mac1 (Config.bc s.keys.mkey) s.keys (lastString s.s2v.d (s.readBytes addr.toNat len.toNat)) ∧
          ∀ r, r ≠ rd → b.get r = s.getBr r))

/-- S2VINIT, S2VADs and S2VFIN one after another write S2V of their strings (R346, R340). -/
def Obligations.StepByStepS2v : Prop :=
  ∀ (rd : BReg) (ads : List (Word × Word)) (addr len : Word) (s : State), s.corrupt = false →
    s.keys.macmode ≠ .none → ads.length ≤ Config.maxAd →
    (∀ p ∈ ads, p.1.toNat + p.2.toNat ≤ Config.memSize) → addr.toNat + len.toNat ≤ Config.memSize →
    let strings := ads.map fun p => s.readBytes p.1.toNat p.2.toNat
    s.Grants (mac1Reqs 16 + (strings.map fun x => mac1Reqs x.length).sum + mac1Reqs (max 16 len.toNat)) →
    ∃ t, execAll (.s2vinit :: (ads.map fun p => .s2vad p.1 p.2) ++ [.s2vfin rd addr len]) s = .next t ∧
      t.getBr rd = s2vTag (Config.bc s.keys.mkey) s.keys strings (s.readBytes addr.toNat len.toNat)

/-- IVQ clears the most significant bits of bytes 8 and 12, and those only; it is idempotent (R349, R347). -/
def Obligations.IvqClearsTwoBits : Prop :=
  ∀ rd rs : BReg,
  (Instr.ivq rd rs).words = [0x43000000#32 ||| (rd.bits.setWidth 32 <<< 20) ||| (rs.bits.setWidth 32 <<< 16)] ∧
  ∀ s : State, s.corrupt = false →
    ∃ b : BRegs, exec (.ivq rd rs) s = .next { s with br := b, cpc := s.cpc + 4#32 } ∧
      (∀ i, i < 16 → blockByte (b.get rd) i =
        if i = 8 ∨ i = 12 then blockByte (s.getBr rs) i &&& 0x7F#8 else blockByte (s.getBr rs) i) ∧
      ivq (b.get rd) = b.get rd ∧ ∀ r, r ≠ rd → b.get r = s.getBr r

/-- Counter mode byte by byte: byte `i` of the output is byte `i` of the input XOR byte `i mod 16` of the encrypted
counter `Q + i/16`, the counter wrapping at 2^128; and the same operation undoes it (R348). -/
def Obligations.CounterModeBytewise : Prop :=
  ∀ (e : Block → Block) (q : Block) (d : Bytes),
    (ctr e q d).length = d.length ∧
    (∀ i, i < d.length →
      (ctr e q d).getD i 0#8 = d.getD i 0#8 ^^^ blockByte (e (q + BitVec.ofNat 128 (i / 16))) (i % 16)) ∧
    ctr e q (ctr e q d) = d

/-- CTRX writes the counter-mode transform under CKEY from the register as it stands, and nothing else (R350). -/
def Obligations.CtrxTransforms : Prop :=
  ∀ (rs : BReg) (src len dst : Word) (s : State), s.corrupt = false →
    (Config.memSize < src.toNat + len.toNat ∨ Config.memSize < dst.toNat + len.toNat →
      exec (.ctrx rs src len dst) s = .next (s.trap .addr)) ∧
    (src.toNat + len.toNat ≤ Config.memSize → dst.toNat + len.toNat ≤ Config.memSize →
      (s.keys.ckey = [] → exec (.ctrx rs src len dst) s = .next (s.trap .noKey)) ∧
      (s.keys.ckey ≠ [] → s.Grants (if len.toNat = 0 then 0 else 1) →
        ∃ t m, exec (.ctrx rs src len dst) s = .next t ∧
          t = { s.spend (if len.toNat = 0 then 0 else 1) with mem := m, cpc := s.cpc + 16#32 } ∧
          Stored s t dst.toNat (ctr (Config.bc s.keys.ckey) (s.getBr rs) (s.readBytes src.toNat len.toNat))))

/-- What is sealed opens to the plaintext, and the sealed string is 16 bytes longer (R353, R352). -/
def Obligations.OpenInvertsSeal : Prop :=
  ∀ (bc : Bytes → Block → Block) (k : Keys) (ads : List Bytes) (p : Bytes),
    (sivSeal bc k ads p).length = 16 + p.length ∧ sivOpen bc k ads (sivSeal bc k ads p) = some p

/-- SIVSEAL writes the tag and the ciphertext, and leaves the engines idle (R354, R357). -/
def Obligations.SivsealWritesSealed : Prop :=
  ∀ (desc src len dst : Word) (s : State) (ads : List Bytes), s.corrupt = false → s.readAds desc = .ok ads →
    src.toNat + len.toNat ≤ Config.memSize → dst.toNat + (16 + len.toNat) ≤ Config.memSize → BothKeys s →
    ads.length ≤ Config.maxAd → s.Grants (messageReqs ads len.toNat) →
    ∃ t m, exec (.sivseal desc src len dst) s = .next t ∧
      t = { s.spend (messageReqs ads len.toNat) with
        mem := m, acc := idleAcc s, s2v := ⟨false, 0#128, 0⟩, cpc := s.cpc + 20#32 } ∧
      Stored s t dst.toNat
        (let v := s2vTag (Config.bc s.keys.mkey) s.keys ads (s.readBytes src.toNat len.toNat)
         blockBytes v ++ ctr (Config.bc s.keys.ckey) (ivq v) (s.readBytes src.toNat len.toNat))

/-- SIVOPEN of a sealed string whose tag matches writes the plaintext; of one whose tag does not it writes zeros and
raises INTEGRITY, the keys and CORRUPT unchanged (R355, R465). -/
def Obligations.SivopenWritesPlaintextOrZeros : Prop :=
  ∀ (desc src len dst : Word) (s : State) (ads : List Bytes), s.corrupt = false → s.readAds desc = .ok ads →
    src.toNat + len.toNat ≤ Config.memSize → 16 ≤ len.toNat → dst.toNat + (len.toNat - 16) ≤ Config.memSize →
    BothKeys s → ads.length ≤ Config.maxAd → s.Grants (messageReqs ads (len.toNat - 16)) →
    let x := s.readBytes src.toNat len.toNat
    let v := blockOf (x.take 16)
    let p := ctr (Config.bc s.keys.ckey) (ivq v) (x.drop 16)
    (s2vTag (Config.bc s.keys.mkey) s.keys ads p = v →
      ∃ t m, exec (.sivopen desc src len dst) s = .next t ∧
        t = { s.spend (messageReqs ads (len.toNat - 16)) with
          mem := m, acc := idleAcc s, s2v := ⟨false, 0#128, 0⟩, cpc := s.cpc + 20#32 } ∧
        Stored s t dst.toNat p) ∧
    (s2vTag (Config.bc s.keys.mkey) s.keys ads p ≠ v →
      ∃ t m, exec (.sivopen desc src len dst) s = .next t ∧
        t = State.trap { s.spend (messageReqs ads (len.toNat - 16)) with
          mem := m, acc := idleAcc s, s2v := ⟨false, 0#128, 0⟩ } .integrity ∧
        Stored s t dst.toNat (List.replicate (len.toNat - 16) 0#8))

/-- The checks of the whole-message commands in the order of R462, each with nothing changed.  Reading an AD list (R117,
R351): ALIGN of its address; ADDR for its head, its pairs and its strings; else the strings in order, from big-endian
words (R103).  Its error is the command's; past it come the checks of R354, R355, R401 and R402, the nonce counting as
an AD string. -/
def Obligations.SivopenChecksInOrder : Prop :=
  (∀ (desc : Word) (s : State),
    (∀ a, (s.word a).toNat = (s.byteAt a).toNat * 2 ^ 24 + (s.byteAt (a + 1)).toNat * 2 ^ 16 +
      (s.byteAt (a + 2)).toNat * 2 ^ 8 + (s.byteAt (a + 3)).toNat) ∧
    let n := (s.word desc.toNat).toNat
    (desc.toNat % 4 ≠ 0 → s.readAds desc = .error .align) ∧
    (desc.toNat % 4 = 0 →
      (¬InMem (desc.toNat, 4) → s.readAds desc = .error .addr) ∧
      (InMem (desc.toNat, 4) → ¬InMem (desc.toNat + 4, 8 * n) → s.readAds desc = .error .addr) ∧
      (InMem (desc.toNat + 4, 8 * n) →
        ((∃ k, k < n ∧ ¬InMem (entryAddr s desc k, entryLen s desc k)) → s.readAds desc = .error .addr) ∧
        ((∀ k, k < n → InMem (entryAddr s desc k, entryLen s desc k)) →
          s.readAds desc = .ok ((List.range n).map fun k => s.readBytes (entryAddr s desc k) (entryLen s desc k)))))) ∧
  ∀ (desc nonce nlen src len dst : Word) (s : State), s.corrupt = false →
    (∀ e, s.readAds desc = .error e →
      exec (.sivseal desc src len dst) s = .next (s.trap e) ∧ exec (.sivopen desc src len dst) s = .next (s.trap e) ∧
      exec (.aeadseal desc nonce nlen src len dst) s = .next (s.trap e) ∧
      exec (.aeadopen desc nonce nlen src len dst) s = .next (s.trap e)) ∧
    ∀ ads, s.readAds desc = .ok ads →
      let m := if 16 ≤ len.toNat then len.toNat - 16 else 0
      let input := [(src.toNat, len.toNat)]
      let withNonce := [(nonce.toNat, nlen.toNat), (src.toNat, len.toNat)]
      ChecksInOrder s (exec (.sivseal desc src len dst) s) (input ++ [(dst.toNat, 16 + len.toNat)]) ads.length False ∧
      ChecksInOrder s (exec (.sivopen desc src len dst) s) (input ++ [(dst.toNat, m)]) ads.length (len.toNat < 16) ∧
      ChecksInOrder s (exec (.aeadseal desc nonce nlen src len dst) s)
        (withNonce ++ [(dst.toNat, 16 + len.toNat)]) (ads.length + 1) False ∧
      ChecksInOrder s (exec (.aeadopen desc nonce nlen src len dst) s)
        (withNonce ++ [(dst.toNat, m)]) (ads.length + 1) (len.toNat < 16)

/-- SIVSEAL and then SIVOPEN of its output, under the same descriptor where sealing left its list alone, restores the
plaintext in MEM (R353 to R355). -/
def Obligations.SealThenOpenRestoresPlaintext : Prop :=
  ∀ (desc src len dst olen dst2 : Word) (s : State) (ads : List Bytes), s.corrupt = false →
    s.err = false → s.readAds desc = .ok ads → src.toNat + len.toNat ≤ Config.memSize →
    dst.toNat + (16 + len.toNat) ≤ Config.memSize → dst2.toNat + len.toNat ≤ Config.memSize →
    olen.toNat = 16 + len.toNat → BothKeys s → ads.length ≤ Config.maxAd →
    s.Grants (messageReqs ads len.toNat + messageReqs ads len.toNat) →
    (s.writeBytes dst.toNat (sivSeal Config.bc s.keys ads (s.readBytes src.toNat len.toNat))).readAds desc = .ok ads →
    ∃ t, execAll [.sivseal desc src len dst, .sivopen desc dst olen dst2] s = .next t ∧ t.err = false ∧
      t.readBytes dst2.toNat len.toNat = s.readBytes src.toNat len.toNat

/-! ### AEAD -/

/-- AEADSEAL under the conditions of its checks (R401) writes the sealed string and leaves the engines idle; SIVSEAL
leaves the same, but for CPC, under a list with the nonce as its last string (R400). -/
def Obligations.AeadsealIsSivsealWithNonce : Prop :=
  ∀ (desc nonce nlen src len dst : Word) (s : State) (ads : List Bytes), s.corrupt = false →
    s.readAds desc = .ok ads → nonce.toNat + nlen.toNat ≤ Config.memSize →
    src.toNat + len.toNat ≤ Config.memSize → dst.toNat + (16 + len.toNat) ≤ Config.memSize → BothKeys s →
    ads.length + 1 ≤ Config.maxAd →
    s.Grants (messageReqs (ads ++ [s.readBytes nonce.toNat nlen.toNat]) len.toNat) →
    ∃ t m, exec (.aeadseal desc nonce nlen src len dst) s = .next t ∧
      t = { s.spend (messageReqs (ads ++ [s.readBytes nonce.toNat nlen.toNat]) len.toNat) with
        mem := m, acc := idleAcc s, s2v := ⟨false, 0#128, 0⟩, cpc := s.cpc + 28#32 } ∧
      Stored s t dst.toNat
        (aeadSeal Config.bc s.keys ads (s.readBytes nonce.toNat nlen.toNat) (s.readBytes src.toNat len.toNat)) ∧
      ∀ desc' : Word, s.readAds desc' = .ok (ads ++ [s.readBytes nonce.toNat nlen.toNat]) →
        exec (.sivseal desc' src len dst) s = .next { t with cpc := s.cpc + 20#32 }

/-- AEADOPEN writes the plaintext where the tag matches, and zeros with INTEGRITY where it does not (R402). -/
def Obligations.AeadopenWritesPlaintextOrZeros : Prop :=
  ∀ (desc nonce nlen src len dst : Word) (s : State) (ads : List Bytes), s.corrupt = false →
    s.readAds desc = .ok ads → nonce.toNat + nlen.toNat ≤ Config.memSize →
    src.toNat + len.toNat ≤ Config.memSize → 16 ≤ len.toNat → dst.toNat + (len.toNat - 16) ≤ Config.memSize →
    BothKeys s → ads.length + 1 ≤ Config.maxAd →
    let all := ads ++ [s.readBytes nonce.toNat nlen.toNat]
    s.Grants (messageReqs all (len.toNat - 16)) →
    let x := s.readBytes src.toNat len.toNat
    let v := blockOf (x.take 16)
    let p := ctr (Config.bc s.keys.ckey) (ivq v) (x.drop 16)
    (s2vTag (Config.bc s.keys.mkey) s.keys all p = v →
      ∃ t m, exec (.aeadopen desc nonce nlen src len dst) s = .next t ∧
        t = { s.spend (messageReqs all (len.toNat - 16)) with
          mem := m, acc := idleAcc s, s2v := ⟨false, 0#128, 0⟩, cpc := s.cpc + 28#32 } ∧
        Stored s t dst.toNat p) ∧
    (s2vTag (Config.bc s.keys.mkey) s.keys all p ≠ v →
      ∃ t m, exec (.aeadopen desc nonce nlen src len dst) s = .next t ∧
        t = State.trap { s.spend (messageReqs all (len.toNat - 16)) with
          mem := m, acc := idleAcc s, s2v := ⟨false, 0#128, 0⟩ } .integrity ∧
        Stored s t dst.toNat (List.replicate (len.toNat - 16) 0#8))

/-! ### STREAM -/

/-- STINIT sets up a fresh stream in any stream state: the prefix read, counter 0, ACTIVE in its direction (R422). -/
def Obligations.StinitSetsUpStream : Prop :=
  ∀ (dir : Dir) (start : Word),
  (Instr.stinit dir start).words = [0x60000000#32 ||| (dir.bits.setWidth 32 <<< 8), start] ∧
  ∀ s : State, s.corrupt = false →
    (Config.memSize < start.toNat + 8 → exec (.stinit dir start) s = .next (s.trap .addr)) ∧
    (start.toNat + 8 ≤ Config.memSize →
      (¬BothKeys s → exec (.stinit dir start) s = .next (s.trap .noKey)) ∧
      (BothKeys s → exec (.stinit dir start) s =
        .next { s with stream := ⟨.active, dir, s.readBytes start.toNat 8, 0#32⟩, cpc := s.cpc + 8#32 }))

/-- STSEAL seals one chunk under its AD string and nonce, and moves the stream on (R423, R421). -/
def Obligations.StsealSealsChunk : Prop :=
  ∀ (chunk : Chunk) (ad adlen src len dst : Word) (s : State), s.corrupt = false →
    ad.toNat + adlen.toNat ≤ Config.memSize → src.toNat + len.toNat ≤ Config.memSize →
    dst.toNat + (16 + len.toNat) ≤ Config.memSize → BothKeys s → s.stream.state = .active → s.stream.dir = .enc →
    (chunk = .more → s.stream.ctr ≠ 0xFFFFFFFF#32) →
    s.Grants (messageReqs (chunkStrings s chunk ad adlen) len.toNat) →
    ∃ t m, exec (.stseal chunk ad adlen src len dst) s = .next t ∧
      t = { s.spend (messageReqs (chunkStrings s chunk ad adlen) len.toNat) with
        mem := m, acc := idleAcc s, s2v := ⟨false, 0#128, 0⟩, stream := streamAfter chunk s.stream,
        cpc := s.cpc + 24#32 } ∧
      Stored s t dst.toNat
        (sivSeal Config.bc s.keys (chunkStrings s chunk ad adlen) (s.readBytes src.toNat len.toNat))

/-- STOPEN opens one chunk and moves the stream on, or writes zeros, raises INTEGRITY and leaves the stream where it
was (R424). -/
def Obligations.StopenOpensChunk : Prop :=
  ∀ (chunk : Chunk) (ad adlen src len dst : Word) (s : State), s.corrupt = false →
    ad.toNat + adlen.toNat ≤ Config.memSize → src.toNat + len.toNat ≤ Config.memSize → 16 ≤ len.toNat →
    dst.toNat + (len.toNat - 16) ≤ Config.memSize → BothKeys s → s.stream.state = .active → s.stream.dir = .dec →
    (chunk = .more → s.stream.ctr ≠ 0xFFFFFFFF#32) →
    let all := chunkStrings s chunk ad adlen
    s.Grants (messageReqs all (len.toNat - 16)) →
    let x := s.readBytes src.toNat len.toNat
    let v := blockOf (x.take 16)
    let p := ctr (Config.bc s.keys.ckey) (ivq v) (x.drop 16)
    (s2vTag (Config.bc s.keys.mkey) s.keys all p = v →
      ∃ t m, exec (.stopen chunk ad adlen src len dst) s = .next t ∧
        t = { s.spend (messageReqs all (len.toNat - 16)) with
          mem := m, acc := idleAcc s, s2v := ⟨false, 0#128, 0⟩, stream := streamAfter chunk s.stream,
          cpc := s.cpc + 24#32 } ∧
        Stored s t dst.toNat p) ∧
    (s2vTag (Config.bc s.keys.mkey) s.keys all p ≠ v →
      ∃ t m, exec (.stopen chunk ad adlen src len dst) s = .next t ∧
        t = State.trap { s.spend (messageReqs all (len.toNat - 16)) with
          mem := m, acc := idleAcc s, s2v := ⟨false, 0#128, 0⟩ } .integrity ∧
        Stored s t dst.toNat (List.replicate (len.toNat - 16) 0#8))

/-- The checks of the chunk commands in the order of R423 and R424, each command with its own destination range: ADDR,
NO_KEY, CHUNK_SEQUENCE in IDLE or TERMINATED state or in the wrong direction (R426), COUNTER_OVERFLOW for a chunk that
is not the last at counter 2^32 - 1, which terminates the stream (R425), and INTEGRITY for a short sealed input; all
but COUNTER_OVERFLOW change nothing. -/
def Obligations.StreamRefusesChunks : Prop :=
  ∀ (chunk : Chunk) (ad adlen src len dst : Word) (s : State), s.corrupt = false →
    let m := if 16 ≤ len.toNat then len.toNat - 16 else 0
    let input := [(ad.toNat, adlen.toNat), (src.toNat, len.toNat)]
    let seals := exec (.stseal chunk ad adlen src len dst) s
    let opens := exec (.stopen chunk ad adlen src len dst) s
    let overflow := Host.Outcome.next
      (State.trap { s with stream := { s.stream with state := .terminated } } .counterOverflow)
    ((∃ r ∈ input ++ [(dst.toNat, 16 + len.toNat)], ¬InMem r) → seals = .next (s.trap .addr)) ∧
    ((∃ r ∈ input ++ [(dst.toNat, m)], ¬InMem r) → opens = .next (s.trap .addr)) ∧
    ((∀ r ∈ input ++ [(dst.toNat, 16 + len.toNat)], InMem r) →
      (¬BothKeys s → seals = .next (s.trap .noKey)) ∧
      (BothKeys s →
        (s.stream.state ≠ .active ∨ s.stream.dir = .dec → seals = .next (s.trap .chunkSequence)) ∧
        (s.stream.state = .active → s.stream.dir = .enc → chunk = .more → s.stream.ctr = 0xFFFFFFFF#32 →
          seals = overflow))) ∧
    ((∀ r ∈ input ++ [(dst.toNat, m)], InMem r) →
      (¬BothKeys s → opens = .next (s.trap .noKey)) ∧
      (BothKeys s →
        (s.stream.state ≠ .active ∨ s.stream.dir = .enc → opens = .next (s.trap .chunkSequence)) ∧
        (s.stream.state = .active → s.stream.dir = .dec → chunk = .more → s.stream.ctr = 0xFFFFFFFF#32 →
          opens = overflow) ∧
        (s.stream.state = .active → s.stream.dir = .dec → (chunk = .more → s.stream.ctr ≠ 0xFFFFFFFF#32) →
          len.toNat < 16 → opens = .next (s.trap .integrity))))

/-- Under one prefix two chunks have the same nonce only with the same counter and the same `last` mark (R421). -/
def Obligations.ChunkNoncesDiffer : Prop :=
  ∀ (pfx : Bytes) (c c' : Word) (l l' : Chunk), streamNonce pfx c l = streamNonce pfx c' l' → c = c' ∧ l = l'

/-- The stream counter never wraps: but for a command that restarts the stream, a command leaves it or adds one to it
as a number, and then the stream was ACTIVE and stays so (R425, R420). -/
def Obligations.StreamCounterNeverWraps : Prop :=
  ∀ (i : Instr) (s t : State), restartsStream i = false → exec i s = .next t →
    t.stream.ctr = s.stream.ctr ∨
    (t.stream.ctr.toNat = s.stream.ctr.toNat + 1 ∧ s.stream.state = .active ∧ t.stream.state = .active)

/-! ### Rules over every command -/

/-- While CORRUPT = 1 every command but END, NOP, KCLEAR and KIMPORT raises CORRUPT_STATE with nothing changed, and none
of those four does (R189). -/
def Obligations.CorruptStateGate : Prop :=
  ∀ (i : Instr) (s : State), s.corrupt = true →
    (runsCorrupt i = false → exec i s = .next (s.trap .corruptState)) ∧
    (runsCorrupt i = true → s.errcode = 0#8 → ∀ t, exec i s = .next t → t.errcode ≠ Err.corruptState.code)

/-- An error raised at a check changes nothing but the trap record, but for KIMPORT's INVALID_KEY and COUNTER_OVERFLOW;
a sealed input shorter than the tag is an error at a check (R463). -/
def Obligations.CheckErrorsChangeNothing : Prop :=
  (∀ (s t : State) (e : Err), s.host = [] → s.busy = true → s.errcode = 0#8 → step s = .next t →
    t.errcode = e.code →
    (e ∈ [Err.fetch, .illegal, .corruptState, .align, .addr, .noKey, .sequence, .chunkSequence, .pmacLimit, .adLimit] →
      t = s.trap e) ∧
    (e = .invalidKey → t = State.trap { s.zeroize with corrupt := false } e) ∧
    (e = .counterOverflow → t = State.trap { s with stream := { s.stream with state := .terminated } } e)) ∧
  (∀ (s t : State) (a b c d f g : Word) (l : Chunk), s.errcode = 0#8 → t.errcode = Err.integrity.code →
    c.toNat < 16 → (exec (.sivopen a b c d) s = .next t ∨ exec (.aeadopen a f g b c d) s = .next t ∨
      exec (.stopen l a f b c d) s = .next t) → t = s.trap .integrity)

/-- PROVIDER_FAULT sets CORRUPT; it keeps the keys and the stream (KIMPORT leaves them cleared, and ACC and D zero: R59);
it may change the command's own register and ACC and S2V state; in the destination each byte of an open is unchanged or
0, of any other command unchanged or what a run with every request granted leaves; no other byte changes (R464).
That KIMPORT leaves the stream cleared is the model's reading (assumption 7); so is that the other commands keep STDIR
and PREFIX, where R464 point 4 names STSTATE and STCTR only (assumption 18). -/
def Obligations.ProviderFaultEffects : Prop :=
  ∀ (i : Instr) (s t : State), s.errcode = 0#8 → exec i s = .next t → t.errcode = Err.providerFault.code →
    t.corrupt = true ∧ t.err = true ∧ t.busy = false ∧ t.errpc = s.cpc ∧ t.cpc = s.cpc ∧
    (importsKey i = false → t.keys = s.keys ∧ t.stream = s.stream) ∧
    (importsKey i = true →
      t.keys = Keys.cleared ∧ t.stream = Stream.cleared ∧ t.acc = Acc.cleared ∧ t.s2v.d = 0#128) ∧
    (∀ r, target i ≠ some r → t.getBr r = s.getBr r) ∧ PartlyWritten i s t

/-- How a command in a run can end: the run goes on and CPC is past the command, or waits for the provider with nothing
else changed; END ends it with DONE; or an error ends it, its code and this command's address recorded, CPC unmoved
(R182, R183, R186, R466).  How a request without an answer shows is the model's choice (assumption 11). -/
def Obligations.CommandOutcomes : Prop :=
  ∀ (i : Instr) (s : State), s.busy = true → s.done = false → s.err = false → s.errcode = 0#8 → s.errpc = 0#32 →
    ∃ t, exec i s = .next t ∧
      ((i ≠ .endc ∧ t.busy = true ∧ t.done = false ∧ t.err = false ∧ t.errcode = 0#8 ∧ t.errpc = 0#32 ∧
          t.cpc = s.cpc + BitVec.ofNat 32 (4 * (1 + i.operands.length))) ∨
        t = { s with reqOut := true } ∨
        (i = .endc ∧ t = { s with busy := false, done := true }) ∨
        (t.busy = false ∧ t.done = false ∧ t.err = true ∧ t.cpc = s.cpc ∧ t.errpc = s.cpc ∧
          ∃ e : Err, t.errcode = e.code))

/-- No command but KIMPORT and KCLEAR writes a key, a subkey or the mask table (R231, R31, R59); only the stream and key
commands write STREAM state (R41); no command writes CPTR or IRQEN (R48). -/
def Obligations.KeyAndControlFrame : Prop :=
  ∀ (i : Instr) (s t : State), exec i s = .next t →
    (importsKey i = false → i ≠ .kclear → t.keys = s.keys) ∧ (writesStream i = false → t.stream = s.stream) ∧
    t.cptr = s.cptr ∧ t.irqen = s.irqen

/-- A command changes no block register but the one it names in RD (R32). -/
def Obligations.BlockRegisterFrame : Prop :=
  ∀ (i : Instr) (s t : State) (r : BReg), exec i s = .next t → target i ≠ some r → t.getBr r = s.getBr r

/-- A command changes no byte of MEM outside its destination range, and a command without one changes none (R108,
R463 to R465). -/
def Obligations.MemoryFrame : Prop :=
  ∀ (i : Instr) (s t : State) (a : Nat), exec i s = .next t → outside i a → t.byteAt a = s.byteAt a

/-! ### The host -/

/-- Writes of CTRL, STATUS and CPTR (R45, R46, R48, R180): SRESET resets (R501); GO starts a run of an idle core; a
write with neither sets IRQEN alone, and so does one without ABORT during a run; an ABORT without GO while idle is
ignored (R187); W1C bits clear DONE and ERR of an idle core; CPTR keeps bits 1:0 at 0; during a run GO, W1C and CPTR are
ignored (R507); a host write of MEM lands only while idle and changes that byte alone (R107); accesses that the block
does not support, and writes of reserved and read-only offsets, are ignored (R43, R53, R55).
The list of the host's actions is the model's own (assumption 4), and so is the list of a run's completed commands that
GO empties (assumption 12); that W1C keeps ERRCODE and ERRPC is the model's reading (assumption 25), and so is that a
MEM write at P_MEM_SIZE or above, or an MMIO offset of 256 or above, reaches nothing (assumption 17). -/
def Obligations.HostWritesTakeEffect : Prop :=
  ∀ (s : State) (v : Word) (a width off : Nat) (b : Byte) (later : List HostAct),
    (s.host = .mmioWrite 4 0x04 v :: later →
      (v.getLsbD 1 = true → step s = .next (State.softReset { s with host := later })) ∧
      (v.getLsbD 1 = false → v.getLsbD 0 = true → s.busy = false →
        step s = .next { s with
          cpc := s.cptr, done := false, err := false, errcode := 0#8, errpc := 0#32, busy := true, past := [],
          irqen := v.getLsbD 8, host := later }) ∧
      (v.getLsbD 1 = false → v.getLsbD 0 = false → s.busy = false →
        step s = .next { s with irqen := v.getLsbD 8, host := later }) ∧
      (v.getLsbD 1 = false → v.getLsbD 2 = false → s.busy = true →
        step s = .next { s with irqen := v.getLsbD 8, host := later })) ∧
    (s.host = .mmioWrite 4 0x08 v :: later →
      step s = .next (if s.busy then { s with host := later } else
        { s with done := s.done && !v.getLsbD 1, err := s.err && !v.getLsbD 2, host := later })) ∧
    (s.host = .mmioWrite 4 0x10 v :: later →
      ∃ c : Word, step s = .next { s with cptr := c, host := later } ∧
        (s.busy = true → c = s.cptr) ∧ (s.busy = false → c.toNat = v.toNat - v.toNat % 4)) ∧
    (s.host = .mmioWrite width off v :: later →
      width ≠ 4 ∨ off % 4 ≠ 0 ∨ 256 ≤ off ∨ (off ≠ 0x04 ∧ off ≠ 0x08 ∧ off ≠ 0x10) →
      step s = .next { s with host := later }) ∧
    (s.host = .memWrite a b :: later →
      ∃ t m, step s = .next t ∧ t = { s with mem := m, host := later } ∧ (∀ x, x ≠ a → t.byteAt x = s.byteAt x) ∧
        (s.busy = true ∨ Config.memSize ≤ a → m = s.mem) ∧
        (s.busy = false → a < Config.memSize → t.byteAt a = b))

/-- ABORT during a run ends it with ABORTED and CORRUPT, whatever GO is beside it (R45, R507); the keys and the stream
are kept, but a KIMPORT in progress leaves them cleared and ACC and D zero (R59); only the register of the command at
CPC may change, and of MEM only its destination, as R464 points 5 and 6 allow (R187, R464).
Whether the command was met in progress is a free draw of the model (assumption 9), the list of the host's actions is
the model's own (assumption 4), and that STDIR and PREFIX are kept is its reading (assumption 18), as is that a KIMPORT
leaves the stream cleared (assumption 7). -/
def Obligations.AbortEndsRunCorrupted : Prop :=
  ∀ (s : State) (v : Word) (later : List HostAct), s.host = .mmioWrite 4 0x04 v :: later → s.busy = true →
    v.getLsbD 1 = false → v.getLsbD 2 = true →
    ∃ t, step s = .next t ∧ t.busy = false ∧ t.err = true ∧ t.errcode = 0x41#8 ∧ t.errpc = s.cpc ∧ t.cpc = s.cpc ∧
      t.corrupt = true ∧ t.done = s.done ∧ t.cptr = s.cptr ∧ t.irqen = v.getLsbD 8 ∧ t.host = later ∧
      (∀ i, s.fetch = .ok i →
        (importsKey i = false → t.keys = s.keys ∧ t.stream = s.stream) ∧
        (importsKey i = true →
          (t.keys = s.keys ∧ t.stream = s.stream) ∨
          (t.keys = Keys.cleared ∧ t.stream = Stream.cleared ∧ t.acc = Acc.cleared ∧ t.s2v.d = 0#128)) ∧
        (∀ r, target i ≠ some r → t.getBr r = s.getBr r) ∧ PartlyWritten i s t) ∧
      (∀ e, s.fetch = .error e →
        t.keys = s.keys ∧ t.stream = s.stream ∧ t.br = s.br ∧ ∀ a, t.byteAt a = s.byteAt a)

/-- The STATUS word field by field, the reserved bits 0; bits 0 to 2 are exact during a run too; the interrupt output
follows IRQEN, DONE and ERR (R46, R54).  The other registers as the host reads them: ID, CTRL, ERRCODE, CPTR, ERRPC,
STCTR, S2VCNT, and 0 at reserved offsets and where the block does not support the access (R43 to R55); CPC is exact
while idle, and during a run the address of a command that the run has completed or reaches (R49).  A byte of MEM reads
0 during a run and as itself while idle (R107).
The number of the read and the list of the run's completed commands are the model's own (assumption 12); that an offset
of 256 or above reads 0 is its reading (assumption 17). -/
def Obligations.StatusShowsState : Prop :=
  ∀ (n : Nat) (s : State),
    (s.status n).getLsbD 0 = s.busy ∧ (s.status n).getLsbD 1 = s.done ∧ (s.status n).getLsbD 2 = s.err ∧
    (s.status n).extractLsb' 4 4 = 0#4 ∧ (s.status n).extractLsb' 21 11 = 0#11 ∧
    (s.busy = false →
      (s.status n).getLsbD 3 = s.corrupt ∧
      (s.status n).extractLsb' 8 2 =
        (match s.keys.macmode with | .none => 0#2 | .cmac => 1#2 | .pmac => 2#2) ∧
      (s.status n).getLsbD 10 = !s.keys.ckey.isEmpty ∧ (s.status n).getLsbD 11 = s.acc.fin ∧
      (s.acc.pos ≤ 16 → ((s.status n).extractLsb' 12 5).toNat = s.acc.pos) ∧
      (s.status n).getLsbD 17 = s.s2v.act ∧
      (s.status n).extractLsb' 18 2 =
        (match s.stream.state with | .idle => 0#2 | .active => 1#2 | .terminated => 2#2) ∧
      (s.status n).getLsbD 20 = (match s.stream.dir with | .enc => false | .dec => true)) ∧
    s.irq = (s.irqen && (s.done || s.err)) ∧
    s.mmioRead n 4 0x00 = 0x4D534331#32 ∧ s.mmioRead n 4 0x04 = (if s.irqen then 0x100#32 else 0#32) ∧
    s.mmioRead n 4 0x08 = s.status n ∧ (s.mmioRead n 4 0x0C).toNat = s.errcode.toNat ∧
    s.mmioRead n 4 0x10 = s.cptr ∧ s.mmioRead n 4 0x18 = s.errpc ∧ s.mmioRead n 4 0x1C = s.stream.ctr ∧
    (s.s2v.nad ≤ Config.maxAd → (s.mmioRead n 4 0x20).toNat = s.s2v.nad) ∧
    (s.busy = false → s.mmioRead n 4 0x14 = s.cpc) ∧
    (s.busy = true → s.mmioRead n 4 0x14 ∈ s.past ∨ ∃ t, RunReaches s t ∧ s.mmioRead n 4 0x14 = t.cpc) ∧
    (∀ width off, width ≠ 4 ∨ off % 4 ≠ 0 ∨ 0x24 ≤ off → s.mmioRead n width off = 0#32) ∧
    (∀ a, s.hostByte a = if s.busy then 0#8 else s.byteAt a)
end

