-- ==== Sys2Proof/Laws/Field.lean ====
section
/-!
SUPPORT. Blocks and byte strings: the bits of a block made of bytes, and that the byte view of a block and the block
made of bytes are inverse.
-/

namespace Sys2Proof.Machine

@[simp] theorem blockBytes_length (b : Block) : (blockBytes b).length = 16 := by simp [blockBytes]

theorem blockBytes_getElem (b : Block) (i : Nat) (h : i < (blockBytes b).length) :
    (blockBytes b)[i] = blockByte b i := by simp [blockBytes]

@[simp] theorem xorBytes_length (x y : Bytes) : (xorBytes x y).length = min x.length y.length := by simp [xorBytes]

theorem xorBytes_getElem (x y : Bytes) (i : Nat) (h : i < (xorBytes x y).length) :
    (xorBytes x y)[i] = x[i]'(by simp at h; omega) ^^^ y[i]'(by simp at h; omega) := by simp [xorBytes]

/-- XOR with the same string twice changes nothing. -/
theorem xorBytes_cancel (x y : Bytes) (h : x.length ≤ y.length) : xorBytes (xorBytes x y) y = x := by
  induction x generalizing y with
  | nil => simp [xorBytes]
  | cons a x ih =>
    cases y with
    | nil => simp at h
    | cons b y =>
      have := ih y (by simpa using h)
      simp only [xorBytes, List.zipWith_cons_cons] at this ⊢
      rw [this, BitVec.xor_assoc, BitVec.xor_self, BitVec.xor_zero]

/-- Bit `j` of a block made of bytes is a bit of the byte that holds it. -/
theorem blockOfLow_getLsbD (k : Nat) (hk : k ≤ 16) (bs : Bytes) (j : Nat) :
    (blockOfLow k bs).getLsbD j = (decide (j < 8 * k) && (bs.getD (k - 1 - j / 8) 0#8).getLsbD (j % 8)) := by
  induction k generalizing bs with
  | zero => simp [blockOfLow]
  | succ k ih =>
    cases bs with
    | nil => simp [blockOfLow]
    | cons b bs =>
      simp only [blockOfLow, BitVec.getLsbD_or, BitVec.getLsbD_shiftLeft, BitVec.getLsbD_setWidth,
        ih (by omega)]
      by_cases h1 : j < 8 * k
      · have h2 : k + 1 - 1 - j / 8 = (k - 1 - j / 8) + 1 := by omega
        have h3 : j < 8 * (k + 1) := by omega
        rw [h2, List.getD_cons_succ]
        simp [h1, h3]
      · by_cases h3 : j < 8 * (k + 1)
        · have h2 : k + 1 - 1 - j / 8 = 0 := by omega
          have h4 : j % 8 = j - 8 * k := by omega
          have h5 : j < 128 := by omega
          have h6 : j - 8 * k < 128 := by omega
          rw [h2, List.getD_cons_zero, h4]
          simp [h1, h3, h5, h6]
        · have : b.getLsbD (j - 8 * k) = false := BitVec.getLsbD_of_ge _ _ (by omega)
          simp [h1, h3, this]

theorem blockOf_getLsbD (bs : Bytes) (j : Nat) :
    (blockOf bs).getLsbD j = (decide (j < 128) && (bs.getD (15 - j / 8) 0#8).getLsbD (j % 8)) := by
  rw [blockOf, blockOfLow_getLsbD 16 (by omega)]

/-- The block made of a block's bytes is the block. -/
@[simp] theorem blockOf_blockBytes (b : Block) : blockOf (blockBytes b) = b := by
  apply BitVec.eq_of_getLsbD_eq
  intro j hj
  rw [blockOf_getLsbD]
  have h1 : 15 - j / 8 < (blockBytes b).length := by simp; omega
  rw [List.getD_eq_getElem _ _ h1, blockBytes_getElem, blockByte, BitVec.getLsbD_extractLsb']
  have h2 : j % 8 < 8 := by omega
  have h3 : 8 * (15 - (15 - j / 8)) + j % 8 = j := by omega
  simp [hj, h2, h3]

/-- Byte `i` of a block made of bytes. -/
theorem blockByte_blockOf (bs : Bytes) (i : Nat) (h : i < 16) : blockByte (blockOf bs) i = bs.getD i 0#8 := by
  apply BitVec.eq_of_getLsbD_eq
  intro j hj
  rw [blockByte, BitVec.getLsbD_extractLsb', blockOf_getLsbD]
  have h1 : 8 * (15 - i) + j < 128 := by omega
  have h2 : 15 - (8 * (15 - i) + j) / 8 = i := by omega
  have h3 : (8 * (15 - i) + j) % 8 = j := by omega
  simp [hj, h1, h2, h3]

/-- The bytes of a block made of 16 bytes are those bytes. -/
theorem blockBytes_blockOf (bs : Bytes) (h : bs.length = 16) : blockBytes (blockOf bs) = bs := by
  apply List.ext_getElem (by simp [h])
  intro i h1 h2
  rw [blockBytes_getElem, blockByte_blockOf _ _ (by omega), List.getD_eq_getElem _ _ h2]

/-- Two blocks with the same bytes are equal. -/
theorem block_ext {a b : Block} (h : ∀ i, i < 16 → blockByte a i = blockByte b i) : a = b := by
  have hb : blockBytes a = blockBytes b := by
    apply List.ext_getElem (by simp)
    intro i h1 _
    rw [blockBytes_getElem, blockBytes_getElem]
    exact h i (by simpa using h1)
  exact (blockOf_blockBytes a).symm.trans ((congrArg blockOf hb).trans (blockOf_blockBytes b))

end Sys2Proof.Machine
end

