-- ==== Sys2Proof/Laws/State.lean ====
section
/-!
SUPPORT. For each update of the state, one lemma per field: the field's new value, or that the update leaves it alone.
-/

namespace Sys2Proof.Machine

/-! ### setBr -/

@[simp] theorem State.setBr_br (s : State) (r : BReg) (v : Block) : (s.setBr r v).br = s.br.set r v := rfl
@[simp] theorem State.setBr_keys (s : State) (r : BReg) (v : Block) : (s.setBr r v).keys = s.keys := rfl
@[simp] theorem State.setBr_acc (s : State) (r : BReg) (v : Block) : (s.setBr r v).acc = s.acc := rfl
@[simp] theorem State.setBr_s2v (s : State) (r : BReg) (v : Block) : (s.setBr r v).s2v = s.s2v := rfl
@[simp] theorem State.setBr_stream (s : State) (r : BReg) (v : Block) : (s.setBr r v).stream = s.stream := rfl
@[simp] theorem State.setBr_busy (s : State) (r : BReg) (v : Block) : (s.setBr r v).busy = s.busy := rfl
@[simp] theorem State.setBr_cpc (s : State) (r : BReg) (v : Block) : (s.setBr r v).cpc = s.cpc := rfl
@[simp] theorem State.setBr_corrupt (s : State) (r : BReg) (v : Block) : (s.setBr r v).corrupt = s.corrupt := rfl
@[simp] theorem State.setBr_errcode (s : State) (r : BReg) (v : Block) : (s.setBr r v).errcode = s.errcode := rfl
@[simp] theorem State.setBr_errpc (s : State) (r : BReg) (v : Block) : (s.setBr r v).errpc = s.errpc := rfl
@[simp] theorem State.setBr_done (s : State) (r : BReg) (v : Block) : (s.setBr r v).done = s.done := rfl
@[simp] theorem State.setBr_err (s : State) (r : BReg) (v : Block) : (s.setBr r v).err = s.err := rfl
@[simp] theorem State.setBr_cptr (s : State) (r : BReg) (v : Block) : (s.setBr r v).cptr = s.cptr := rfl
@[simp] theorem State.setBr_irqen (s : State) (r : BReg) (v : Block) : (s.setBr r v).irqen = s.irqen := rfl
@[simp] theorem State.setBr_reqOut (s : State) (r : BReg) (v : Block) : (s.setBr r v).reqOut = s.reqOut := rfl
@[simp] theorem State.setBr_mem (s : State) (r : BReg) (v : Block) : (s.setBr r v).mem = s.mem := rfl
@[simp] theorem State.setBr_epoch (s : State) (r : BReg) (v : Block) : (s.setBr r v).epoch = s.epoch := rfl
@[simp] theorem State.setBr_answers (s : State) (r : BReg) (v : Block) : (s.setBr r v).answers = s.answers := rfl
@[simp] theorem State.setBr_reqs (s : State) (r : BReg) (v : Block) : (s.setBr r v).reqs = s.reqs := rfl
@[simp] theorem State.setBr_draws (s : State) (r : BReg) (v : Block) : (s.setBr r v).draws = s.draws := rfl
@[simp] theorem State.setBr_host (s : State) (r : BReg) (v : Block) : (s.setBr r v).host = s.host := rfl
@[simp] theorem State.setBr_past (s : State) (r : BReg) (v : Block) : (s.setBr r v).past = s.past := rfl

/-! ### zeroize -/

@[simp] theorem State.zeroize_br (s : State) : (s.zeroize).br = s.br := rfl
@[simp] theorem State.zeroize_keys (s : State) : (s.zeroize).keys = Keys.cleared := rfl
@[simp] theorem State.zeroize_acc (s : State) : (s.zeroize).acc = Acc.cleared := rfl
@[simp] theorem State.zeroize_s2v (s : State) : (s.zeroize).s2v = S2v.cleared := rfl
@[simp] theorem State.zeroize_stream (s : State) : (s.zeroize).stream = Stream.cleared := rfl
@[simp] theorem State.zeroize_busy (s : State) : (s.zeroize).busy = s.busy := rfl
@[simp] theorem State.zeroize_cpc (s : State) : (s.zeroize).cpc = s.cpc := rfl
@[simp] theorem State.zeroize_corrupt (s : State) : (s.zeroize).corrupt = s.corrupt := rfl
@[simp] theorem State.zeroize_errcode (s : State) : (s.zeroize).errcode = s.errcode := rfl
@[simp] theorem State.zeroize_errpc (s : State) : (s.zeroize).errpc = s.errpc := rfl
@[simp] theorem State.zeroize_done (s : State) : (s.zeroize).done = s.done := rfl
@[simp] theorem State.zeroize_err (s : State) : (s.zeroize).err = s.err := rfl
@[simp] theorem State.zeroize_cptr (s : State) : (s.zeroize).cptr = s.cptr := rfl
@[simp] theorem State.zeroize_irqen (s : State) : (s.zeroize).irqen = s.irqen := rfl
@[simp] theorem State.zeroize_reqOut (s : State) : (s.zeroize).reqOut = s.reqOut := rfl
@[simp] theorem State.zeroize_mem (s : State) : (s.zeroize).mem = s.mem := rfl
@[simp] theorem State.zeroize_epoch (s : State) : (s.zeroize).epoch = s.epoch := rfl
@[simp] theorem State.zeroize_answers (s : State) : (s.zeroize).answers = s.answers := rfl
@[simp] theorem State.zeroize_reqs (s : State) : (s.zeroize).reqs = s.reqs := rfl
@[simp] theorem State.zeroize_draws (s : State) : (s.zeroize).draws = s.draws := rfl
@[simp] theorem State.zeroize_host (s : State) : (s.zeroize).host = s.host := rfl
@[simp] theorem State.zeroize_past (s : State) : (s.zeroize).past = s.past := rfl

/-! ### trap -/

@[simp] theorem State.trap_br (s : State) (e : Err) : (s.trap e).br = s.br := rfl
@[simp] theorem State.trap_keys (s : State) (e : Err) : (s.trap e).keys = s.keys := rfl
@[simp] theorem State.trap_acc (s : State) (e : Err) : (s.trap e).acc = s.acc := rfl
@[simp] theorem State.trap_s2v (s : State) (e : Err) : (s.trap e).s2v = s.s2v := rfl
@[simp] theorem State.trap_stream (s : State) (e : Err) : (s.trap e).stream = s.stream := rfl
@[simp] theorem State.trap_busy (s : State) (e : Err) : (s.trap e).busy = false := rfl
@[simp] theorem State.trap_cpc (s : State) (e : Err) : (s.trap e).cpc = s.cpc := rfl
@[simp] theorem State.trap_corrupt (s : State) (e : Err) : (s.trap e).corrupt = s.corrupt := rfl
@[simp] theorem State.trap_errcode (s : State) (e : Err) : (s.trap e).errcode = e.code := rfl
@[simp] theorem State.trap_errpc (s : State) (e : Err) : (s.trap e).errpc = s.cpc := rfl
@[simp] theorem State.trap_done (s : State) (e : Err) : (s.trap e).done = s.done := rfl
@[simp] theorem State.trap_err (s : State) (e : Err) : (s.trap e).err = true := rfl
@[simp] theorem State.trap_cptr (s : State) (e : Err) : (s.trap e).cptr = s.cptr := rfl
@[simp] theorem State.trap_irqen (s : State) (e : Err) : (s.trap e).irqen = s.irqen := rfl
@[simp] theorem State.trap_reqOut (s : State) (e : Err) : (s.trap e).reqOut = s.reqOut := rfl
@[simp] theorem State.trap_mem (s : State) (e : Err) : (s.trap e).mem = s.mem := rfl
@[simp] theorem State.trap_epoch (s : State) (e : Err) : (s.trap e).epoch = s.epoch := rfl
@[simp] theorem State.trap_answers (s : State) (e : Err) : (s.trap e).answers = s.answers := rfl
@[simp] theorem State.trap_reqs (s : State) (e : Err) : (s.trap e).reqs = s.reqs := rfl
@[simp] theorem State.trap_draws (s : State) (e : Err) : (s.trap e).draws = s.draws := rfl
@[simp] theorem State.trap_host (s : State) (e : Err) : (s.trap e).host = s.host := rfl
@[simp] theorem State.trap_past (s : State) (e : Err) : (s.trap e).past = s.past := rfl

/-! ### startRun -/

@[simp] theorem State.startRun_br (s : State) : (s.startRun).br = s.br := rfl
@[simp] theorem State.startRun_keys (s : State) : (s.startRun).keys = s.keys := rfl
@[simp] theorem State.startRun_acc (s : State) : (s.startRun).acc = s.acc := rfl
@[simp] theorem State.startRun_s2v (s : State) : (s.startRun).s2v = s.s2v := rfl
@[simp] theorem State.startRun_stream (s : State) : (s.startRun).stream = s.stream := rfl
@[simp] theorem State.startRun_busy (s : State) : (s.startRun).busy = true := rfl
@[simp] theorem State.startRun_cpc (s : State) : (s.startRun).cpc = s.cptr := rfl
@[simp] theorem State.startRun_corrupt (s : State) : (s.startRun).corrupt = s.corrupt := rfl
@[simp] theorem State.startRun_errcode (s : State) : (s.startRun).errcode = 0#8 := rfl
@[simp] theorem State.startRun_errpc (s : State) : (s.startRun).errpc = 0#32 := rfl
@[simp] theorem State.startRun_done (s : State) : (s.startRun).done = false := rfl
@[simp] theorem State.startRun_err (s : State) : (s.startRun).err = false := rfl
@[simp] theorem State.startRun_cptr (s : State) : (s.startRun).cptr = s.cptr := rfl
@[simp] theorem State.startRun_irqen (s : State) : (s.startRun).irqen = s.irqen := rfl
@[simp] theorem State.startRun_reqOut (s : State) : (s.startRun).reqOut = s.reqOut := rfl
@[simp] theorem State.startRun_mem (s : State) : (s.startRun).mem = s.mem := rfl
@[simp] theorem State.startRun_epoch (s : State) : (s.startRun).epoch = s.epoch := rfl
@[simp] theorem State.startRun_answers (s : State) : (s.startRun).answers = s.answers := rfl
@[simp] theorem State.startRun_reqs (s : State) : (s.startRun).reqs = s.reqs := rfl
@[simp] theorem State.startRun_draws (s : State) : (s.startRun).draws = s.draws := rfl
@[simp] theorem State.startRun_host (s : State) : (s.startRun).host = s.host := rfl
@[simp] theorem State.startRun_past (s : State) : (s.startRun).past = [] := rfl

/-! ### advance -/

@[simp] theorem State.advance_br (s : State) (n : Nat) : (s.advance n).br = s.br := rfl
@[simp] theorem State.advance_keys (s : State) (n : Nat) : (s.advance n).keys = s.keys := rfl
@[simp] theorem State.advance_acc (s : State) (n : Nat) : (s.advance n).acc = s.acc := rfl
@[simp] theorem State.advance_s2v (s : State) (n : Nat) : (s.advance n).s2v = s.s2v := rfl
@[simp] theorem State.advance_stream (s : State) (n : Nat) : (s.advance n).stream = s.stream := rfl
@[simp] theorem State.advance_busy (s : State) (n : Nat) : (s.advance n).busy = s.busy := rfl
@[simp] theorem State.advance_cpc (s : State) (n : Nat) : (s.advance n).cpc = s.cpc + BitVec.ofNat 32 n := rfl
@[simp] theorem State.advance_corrupt (s : State) (n : Nat) : (s.advance n).corrupt = s.corrupt := rfl
@[simp] theorem State.advance_errcode (s : State) (n : Nat) : (s.advance n).errcode = s.errcode := rfl
@[simp] theorem State.advance_errpc (s : State) (n : Nat) : (s.advance n).errpc = s.errpc := rfl
@[simp] theorem State.advance_done (s : State) (n : Nat) : (s.advance n).done = s.done := rfl
@[simp] theorem State.advance_err (s : State) (n : Nat) : (s.advance n).err = s.err := rfl
@[simp] theorem State.advance_cptr (s : State) (n : Nat) : (s.advance n).cptr = s.cptr := rfl
@[simp] theorem State.advance_irqen (s : State) (n : Nat) : (s.advance n).irqen = s.irqen := rfl
@[simp] theorem State.advance_reqOut (s : State) (n : Nat) : (s.advance n).reqOut = s.reqOut := rfl
@[simp] theorem State.advance_mem (s : State) (n : Nat) : (s.advance n).mem = s.mem := rfl
@[simp] theorem State.advance_epoch (s : State) (n : Nat) : (s.advance n).epoch = s.epoch := rfl
@[simp] theorem State.advance_answers (s : State) (n : Nat) : (s.advance n).answers = s.answers := rfl
@[simp] theorem State.advance_reqs (s : State) (n : Nat) : (s.advance n).reqs = s.reqs := rfl
@[simp] theorem State.advance_draws (s : State) (n : Nat) : (s.advance n).draws = s.draws := rfl
@[simp] theorem State.advance_host (s : State) (n : Nat) : (s.advance n).host = s.host := rfl
@[simp] theorem State.advance_past (s : State) (n : Nat) : (s.advance n).past = s.past := rfl

/-! ### spend -/

@[simp] theorem State.spend_br (s : State) (n : Nat) : (s.spend n).br = s.br := rfl
@[simp] theorem State.spend_keys (s : State) (n : Nat) : (s.spend n).keys = s.keys := rfl
@[simp] theorem State.spend_acc (s : State) (n : Nat) : (s.spend n).acc = s.acc := rfl
@[simp] theorem State.spend_s2v (s : State) (n : Nat) : (s.spend n).s2v = s.s2v := rfl
@[simp] theorem State.spend_stream (s : State) (n : Nat) : (s.spend n).stream = s.stream := rfl
@[simp] theorem State.spend_busy (s : State) (n : Nat) : (s.spend n).busy = s.busy := rfl
@[simp] theorem State.spend_cpc (s : State) (n : Nat) : (s.spend n).cpc = s.cpc := rfl
@[simp] theorem State.spend_corrupt (s : State) (n : Nat) : (s.spend n).corrupt = s.corrupt := rfl
@[simp] theorem State.spend_errcode (s : State) (n : Nat) : (s.spend n).errcode = s.errcode := rfl
@[simp] theorem State.spend_errpc (s : State) (n : Nat) : (s.spend n).errpc = s.errpc := rfl
@[simp] theorem State.spend_done (s : State) (n : Nat) : (s.spend n).done = s.done := rfl
@[simp] theorem State.spend_err (s : State) (n : Nat) : (s.spend n).err = s.err := rfl
@[simp] theorem State.spend_cptr (s : State) (n : Nat) : (s.spend n).cptr = s.cptr := rfl
@[simp] theorem State.spend_irqen (s : State) (n : Nat) : (s.spend n).irqen = s.irqen := rfl
@[simp] theorem State.spend_reqOut (s : State) (n : Nat) : (s.spend n).reqOut = (s.reqOut && n == 0) := rfl
@[simp] theorem State.spend_mem (s : State) (n : Nat) : (s.spend n).mem = s.mem := rfl
@[simp] theorem State.spend_epoch (s : State) (n : Nat) : (s.spend n).epoch = s.epoch := rfl
@[simp] theorem State.spend_answers (s : State) (n : Nat) : (s.spend n).answers = s.answers.drop n := rfl
@[simp] theorem State.spend_reqs (s : State) (n : Nat) : (s.spend n).reqs = s.reqs + n := rfl
@[simp] theorem State.spend_draws (s : State) (n : Nat) : (s.spend n).draws = s.draws := rfl
@[simp] theorem State.spend_host (s : State) (n : Nat) : (s.spend n).host = s.host := rfl
@[simp] theorem State.spend_past (s : State) (n : Nat) : (s.spend n).past = s.past := rfl

/-! ### corrupted -/

@[simp] theorem State.corrupted_br (s : State) : (s.corrupted).br = s.br := rfl
@[simp] theorem State.corrupted_keys (s : State) : (s.corrupted).keys = s.keys := rfl
@[simp] theorem State.corrupted_acc (s : State) : (s.corrupted).acc = s.acc := rfl
@[simp] theorem State.corrupted_s2v (s : State) : (s.corrupted).s2v = s.s2v := rfl
@[simp] theorem State.corrupted_stream (s : State) : (s.corrupted).stream = s.stream := rfl
@[simp] theorem State.corrupted_busy (s : State) : (s.corrupted).busy = s.busy := rfl
@[simp] theorem State.corrupted_cpc (s : State) : (s.corrupted).cpc = s.cpc := rfl
@[simp] theorem State.corrupted_corrupt (s : State) : (s.corrupted).corrupt = true := rfl
@[simp] theorem State.corrupted_errcode (s : State) : (s.corrupted).errcode = s.errcode := rfl
@[simp] theorem State.corrupted_errpc (s : State) : (s.corrupted).errpc = s.errpc := rfl
@[simp] theorem State.corrupted_done (s : State) : (s.corrupted).done = s.done := rfl
@[simp] theorem State.corrupted_err (s : State) : (s.corrupted).err = s.err := rfl
@[simp] theorem State.corrupted_cptr (s : State) : (s.corrupted).cptr = s.cptr := rfl
@[simp] theorem State.corrupted_irqen (s : State) : (s.corrupted).irqen = s.irqen := rfl
@[simp] theorem State.corrupted_reqOut (s : State) : (s.corrupted).reqOut = s.reqOut := rfl
@[simp] theorem State.corrupted_mem (s : State) : (s.corrupted).mem = s.mem := rfl
@[simp] theorem State.corrupted_epoch (s : State) : (s.corrupted).epoch = s.epoch := rfl
@[simp] theorem State.corrupted_answers (s : State) : (s.corrupted).answers = s.answers := rfl
@[simp] theorem State.corrupted_reqs (s : State) : (s.corrupted).reqs = s.reqs := rfl
@[simp] theorem State.corrupted_draws (s : State) : (s.corrupted).draws = s.draws + 1 := rfl
@[simp] theorem State.corrupted_host (s : State) : (s.corrupted).host = s.host := rfl
@[simp] theorem State.corrupted_past (s : State) : (s.corrupted).past = s.past := rfl

/-! ### loseEngines -/

@[simp] theorem State.loseEngines_br (s : State) (n : Nat) (z : Bool) : (s.loseEngines n z).br = s.br := rfl
@[simp] theorem State.loseEngines_keys (s : State) (n : Nat) (z : Bool) : (s.loseEngines n z).keys = s.keys := rfl
@[simp] theorem State.loseEngines_acc (s : State) (n : Nat) (z : Bool) :
    (s.loseEngines n z).acc = if z then Acc.cleared else lostAcc n := rfl
@[simp] theorem State.loseEngines_s2v (s : State) (n : Nat) (z : Bool) :
    (s.loseEngines n z).s2v = if z then { lostS2v n with d := 0#128 } else lostS2v n := rfl
@[simp] theorem State.loseEngines_stream (s : State) (n : Nat) (z : Bool) : (s.loseEngines n z).stream = s.stream := rfl
@[simp] theorem State.loseEngines_busy (s : State) (n : Nat) (z : Bool) : (s.loseEngines n z).busy = s.busy := rfl
@[simp] theorem State.loseEngines_cpc (s : State) (n : Nat) (z : Bool) : (s.loseEngines n z).cpc = s.cpc := rfl
@[simp] theorem State.loseEngines_corrupt (s : State) (n : Nat) (z : Bool) : (s.loseEngines n z).corrupt = s.corrupt := rfl
@[simp] theorem State.loseEngines_errcode (s : State) (n : Nat) (z : Bool) : (s.loseEngines n z).errcode = s.errcode := rfl
@[simp] theorem State.loseEngines_errpc (s : State) (n : Nat) (z : Bool) : (s.loseEngines n z).errpc = s.errpc := rfl
@[simp] theorem State.loseEngines_done (s : State) (n : Nat) (z : Bool) : (s.loseEngines n z).done = s.done := rfl
@[simp] theorem State.loseEngines_err (s : State) (n : Nat) (z : Bool) : (s.loseEngines n z).err = s.err := rfl
@[simp] theorem State.loseEngines_cptr (s : State) (n : Nat) (z : Bool) : (s.loseEngines n z).cptr = s.cptr := rfl
@[simp] theorem State.loseEngines_irqen (s : State) (n : Nat) (z : Bool) : (s.loseEngines n z).irqen = s.irqen := rfl
@[simp] theorem State.loseEngines_reqOut (s : State) (n : Nat) (z : Bool) : (s.loseEngines n z).reqOut = s.reqOut := rfl
@[simp] theorem State.loseEngines_mem (s : State) (n : Nat) (z : Bool) : (s.loseEngines n z).mem = s.mem := rfl
@[simp] theorem State.loseEngines_epoch (s : State) (n : Nat) (z : Bool) : (s.loseEngines n z).epoch = s.epoch := rfl
@[simp] theorem State.loseEngines_answers (s : State) (n : Nat) (z : Bool) : (s.loseEngines n z).answers = s.answers := rfl
@[simp] theorem State.loseEngines_reqs (s : State) (n : Nat) (z : Bool) : (s.loseEngines n z).reqs = s.reqs := rfl
@[simp] theorem State.loseEngines_draws (s : State) (n : Nat) (z : Bool) : (s.loseEngines n z).draws = s.draws := rfl
@[simp] theorem State.loseEngines_host (s : State) (n : Nat) (z : Bool) : (s.loseEngines n z).host = s.host := rfl
@[simp] theorem State.loseEngines_past (s : State) (n : Nat) (z : Bool) : (s.loseEngines n z).past = s.past := rfl

/-! ### abandon drops answers only -/

@[simp] theorem State.abandon_br (s : State) : (s.abandon).br = s.br := by unfold State.abandon; split <;> rfl
@[simp] theorem State.abandon_keys (s : State) : (s.abandon).keys = s.keys := by unfold State.abandon; split <;> rfl
@[simp] theorem State.abandon_acc (s : State) : (s.abandon).acc = s.acc := by unfold State.abandon; split <;> rfl
@[simp] theorem State.abandon_s2v (s : State) : (s.abandon).s2v = s.s2v := by unfold State.abandon; split <;> rfl
@[simp] theorem State.abandon_stream (s : State) : (s.abandon).stream = s.stream := by unfold State.abandon; split <;> rfl
@[simp] theorem State.abandon_busy (s : State) : (s.abandon).busy = s.busy := by unfold State.abandon; split <;> rfl
@[simp] theorem State.abandon_cpc (s : State) : (s.abandon).cpc = s.cpc := by unfold State.abandon; split <;> rfl
@[simp] theorem State.abandon_corrupt (s : State) : (s.abandon).corrupt = s.corrupt := by unfold State.abandon; split <;> rfl
@[simp] theorem State.abandon_errcode (s : State) : (s.abandon).errcode = s.errcode := by unfold State.abandon; split <;> rfl
@[simp] theorem State.abandon_errpc (s : State) : (s.abandon).errpc = s.errpc := by unfold State.abandon; split <;> rfl
@[simp] theorem State.abandon_done (s : State) : (s.abandon).done = s.done := by unfold State.abandon; split <;> rfl
@[simp] theorem State.abandon_err (s : State) : (s.abandon).err = s.err := by unfold State.abandon; split <;> rfl
@[simp] theorem State.abandon_cptr (s : State) : (s.abandon).cptr = s.cptr := by unfold State.abandon; split <;> rfl
@[simp] theorem State.abandon_irqen (s : State) : (s.abandon).irqen = s.irqen := by unfold State.abandon; split <;> rfl
@[simp] theorem State.abandon_mem (s : State) : (s.abandon).mem = s.mem := by unfold State.abandon; split <;> rfl
@[simp] theorem State.abandon_epoch (s : State) : (s.abandon).epoch = s.epoch := by unfold State.abandon; split <;> rfl
@[simp] theorem State.abandon_reqs (s : State) : (s.abandon).reqs = s.reqs := by unfold State.abandon; split <;> rfl
@[simp] theorem State.abandon_draws (s : State) : (s.abandon).draws = s.draws := by unfold State.abandon; split <;> rfl
@[simp] theorem State.abandon_host (s : State) : (s.abandon).host = s.host := by unfold State.abandon; split <;> rfl
@[simp] theorem State.abandon_past (s : State) : (s.abandon).past = s.past := by unfold State.abandon; split <;> rfl
@[simp] theorem State.abandon_reqOut (s : State) : (s.abandon).reqOut = false := by
  unfold State.abandon
  split
  · rfl
  · exact Bool.eq_false_iff.2 ‹_›

/-! ### atBoundary -/

@[simp] theorem State.atBoundary_eq (s : State) : s.atBoundary = s.loseEngines s.draws false := rfl

/-! ### moved changes the list of the run's completed commands only -/

theorem State.moved_eq (s t : State) : s.moved t = { t with past := (s.moved t).past } := by unfold State.moved; split <;> rfl

@[simp] theorem State.moved_br (s t : State) : (s.moved t).br = t.br := by rw [State.moved_eq]
@[simp] theorem State.moved_keys (s t : State) : (s.moved t).keys = t.keys := by rw [State.moved_eq]
@[simp] theorem State.moved_acc (s t : State) : (s.moved t).acc = t.acc := by rw [State.moved_eq]
@[simp] theorem State.moved_s2v (s t : State) : (s.moved t).s2v = t.s2v := by rw [State.moved_eq]
@[simp] theorem State.moved_stream (s t : State) : (s.moved t).stream = t.stream := by rw [State.moved_eq]
@[simp] theorem State.moved_busy (s t : State) : (s.moved t).busy = t.busy := by rw [State.moved_eq]
@[simp] theorem State.moved_cpc (s t : State) : (s.moved t).cpc = t.cpc := by rw [State.moved_eq]
@[simp] theorem State.moved_corrupt (s t : State) : (s.moved t).corrupt = t.corrupt := by rw [State.moved_eq]
@[simp] theorem State.moved_errcode (s t : State) : (s.moved t).errcode = t.errcode := by rw [State.moved_eq]
@[simp] theorem State.moved_errpc (s t : State) : (s.moved t).errpc = t.errpc := by rw [State.moved_eq]
@[simp] theorem State.moved_done (s t : State) : (s.moved t).done = t.done := by rw [State.moved_eq]
@[simp] theorem State.moved_err (s t : State) : (s.moved t).err = t.err := by rw [State.moved_eq]
@[simp] theorem State.moved_cptr (s t : State) : (s.moved t).cptr = t.cptr := by rw [State.moved_eq]
@[simp] theorem State.moved_irqen (s t : State) : (s.moved t).irqen = t.irqen := by rw [State.moved_eq]
@[simp] theorem State.moved_reqOut (s t : State) : (s.moved t).reqOut = t.reqOut := by rw [State.moved_eq]
@[simp] theorem State.moved_mem (s t : State) : (s.moved t).mem = t.mem := by rw [State.moved_eq]
@[simp] theorem State.moved_epoch (s t : State) : (s.moved t).epoch = t.epoch := by rw [State.moved_eq]
@[simp] theorem State.moved_answers (s t : State) : (s.moved t).answers = t.answers := by rw [State.moved_eq]
@[simp] theorem State.moved_reqs (s t : State) : (s.moved t).reqs = t.reqs := by rw [State.moved_eq]
@[simp] theorem State.moved_draws (s t : State) : (s.moved t).draws = t.draws := by rw [State.moved_eq]
@[simp] theorem State.moved_host (s t : State) : (s.moved t).host = t.host := by rw [State.moved_eq]

/-- Where the run goes on past the command, its address comes to the front of the list. -/
theorem State.moved_past (s t : State) :
    (s.moved t).past = if t.busy = true ∧ t.cpc ≠ s.cpc then s.cpc :: t.past else t.past := by
  unfold State.moved
  by_cases h : t.busy = true ∧ t.cpc ≠ s.cpc
  · simp [h]
  · rw [if_neg h, if_neg (by simpa using h)]

/-! ### macIdle -/

@[simp] theorem State.macIdle_br (s : State) : (s.macIdle).br = s.br := rfl
@[simp] theorem State.macIdle_keys (s : State) : (s.macIdle).keys = s.keys := rfl
@[simp] theorem State.macIdle_acc (s : State) : (s.macIdle).acc = macReset s.keys.macmode s.acc := rfl
@[simp] theorem State.macIdle_s2v (s : State) : (s.macIdle).s2v = s.s2v := rfl
@[simp] theorem State.macIdle_stream (s : State) : (s.macIdle).stream = s.stream := rfl
@[simp] theorem State.macIdle_busy (s : State) : (s.macIdle).busy = s.busy := rfl
@[simp] theorem State.macIdle_cpc (s : State) : (s.macIdle).cpc = s.cpc := rfl
@[simp] theorem State.macIdle_corrupt (s : State) : (s.macIdle).corrupt = s.corrupt := rfl
@[simp] theorem State.macIdle_errcode (s : State) : (s.macIdle).errcode = s.errcode := rfl
@[simp] theorem State.macIdle_errpc (s : State) : (s.macIdle).errpc = s.errpc := rfl
@[simp] theorem State.macIdle_done (s : State) : (s.macIdle).done = s.done := rfl
@[simp] theorem State.macIdle_err (s : State) : (s.macIdle).err = s.err := rfl
@[simp] theorem State.macIdle_cptr (s : State) : (s.macIdle).cptr = s.cptr := rfl
@[simp] theorem State.macIdle_irqen (s : State) : (s.macIdle).irqen = s.irqen := rfl
@[simp] theorem State.macIdle_reqOut (s : State) : (s.macIdle).reqOut = s.reqOut := rfl
@[simp] theorem State.macIdle_mem (s : State) : (s.macIdle).mem = s.mem := rfl
@[simp] theorem State.macIdle_epoch (s : State) : (s.macIdle).epoch = s.epoch := rfl
@[simp] theorem State.macIdle_answers (s : State) : (s.macIdle).answers = s.answers := rfl
@[simp] theorem State.macIdle_reqs (s : State) : (s.macIdle).reqs = s.reqs := rfl
@[simp] theorem State.macIdle_draws (s : State) : (s.macIdle).draws = s.draws := rfl
@[simp] theorem State.macIdle_host (s : State) : (s.macIdle).host = s.host := rfl
@[simp] theorem State.macIdle_past (s : State) : (s.macIdle).past = s.past := rfl

/-! ### s2vIdle -/

@[simp] theorem State.s2vIdle_br (s : State) : (s.s2vIdle).br = s.br := rfl
@[simp] theorem State.s2vIdle_keys (s : State) : (s.s2vIdle).keys = s.keys := rfl
@[simp] theorem State.s2vIdle_acc (s : State) : (s.s2vIdle).acc = macReset s.keys.macmode s.acc := rfl
@[simp] theorem State.s2vIdle_s2v (s : State) : (s.s2vIdle).s2v = S2v.cleared := rfl
@[simp] theorem State.s2vIdle_stream (s : State) : (s.s2vIdle).stream = s.stream := rfl
@[simp] theorem State.s2vIdle_busy (s : State) : (s.s2vIdle).busy = s.busy := rfl
@[simp] theorem State.s2vIdle_cpc (s : State) : (s.s2vIdle).cpc = s.cpc := rfl
@[simp] theorem State.s2vIdle_corrupt (s : State) : (s.s2vIdle).corrupt = s.corrupt := rfl
@[simp] theorem State.s2vIdle_errcode (s : State) : (s.s2vIdle).errcode = s.errcode := rfl
@[simp] theorem State.s2vIdle_errpc (s : State) : (s.s2vIdle).errpc = s.errpc := rfl
@[simp] theorem State.s2vIdle_done (s : State) : (s.s2vIdle).done = s.done := rfl
@[simp] theorem State.s2vIdle_err (s : State) : (s.s2vIdle).err = s.err := rfl
@[simp] theorem State.s2vIdle_cptr (s : State) : (s.s2vIdle).cptr = s.cptr := rfl
@[simp] theorem State.s2vIdle_irqen (s : State) : (s.s2vIdle).irqen = s.irqen := rfl
@[simp] theorem State.s2vIdle_reqOut (s : State) : (s.s2vIdle).reqOut = s.reqOut := rfl
@[simp] theorem State.s2vIdle_mem (s : State) : (s.s2vIdle).mem = s.mem := rfl
@[simp] theorem State.s2vIdle_epoch (s : State) : (s.s2vIdle).epoch = s.epoch := rfl
@[simp] theorem State.s2vIdle_answers (s : State) : (s.s2vIdle).answers = s.answers := rfl
@[simp] theorem State.s2vIdle_reqs (s : State) : (s.s2vIdle).reqs = s.reqs := rfl
@[simp] theorem State.s2vIdle_draws (s : State) : (s.s2vIdle).draws = s.draws := rfl
@[simp] theorem State.s2vIdle_host (s : State) : (s.s2vIdle).host = s.host := rfl
@[simp] theorem State.s2vIdle_past (s : State) : (s.s2vIdle).past = s.past := rfl

/-! ### endStream -/

@[simp] theorem State.endStream_br (s : State) : (s.endStream).br = s.br := rfl
@[simp] theorem State.endStream_keys (s : State) : (s.endStream).keys = s.keys := rfl
@[simp] theorem State.endStream_acc (s : State) : (s.endStream).acc = s.acc := rfl
@[simp] theorem State.endStream_s2v (s : State) : (s.endStream).s2v = s.s2v := rfl
@[simp] theorem State.endStream_stream (s : State) : (s.endStream).stream = { s.stream with state := .terminated } := rfl
@[simp] theorem State.endStream_busy (s : State) : (s.endStream).busy = s.busy := rfl
@[simp] theorem State.endStream_cpc (s : State) : (s.endStream).cpc = s.cpc := rfl
@[simp] theorem State.endStream_corrupt (s : State) : (s.endStream).corrupt = s.corrupt := rfl
@[simp] theorem State.endStream_errcode (s : State) : (s.endStream).errcode = s.errcode := rfl
@[simp] theorem State.endStream_errpc (s : State) : (s.endStream).errpc = s.errpc := rfl
@[simp] theorem State.endStream_done (s : State) : (s.endStream).done = s.done := rfl
@[simp] theorem State.endStream_err (s : State) : (s.endStream).err = s.err := rfl
@[simp] theorem State.endStream_cptr (s : State) : (s.endStream).cptr = s.cptr := rfl
@[simp] theorem State.endStream_irqen (s : State) : (s.endStream).irqen = s.irqen := rfl
@[simp] theorem State.endStream_reqOut (s : State) : (s.endStream).reqOut = s.reqOut := rfl
@[simp] theorem State.endStream_mem (s : State) : (s.endStream).mem = s.mem := rfl
@[simp] theorem State.endStream_epoch (s : State) : (s.endStream).epoch = s.epoch := rfl
@[simp] theorem State.endStream_answers (s : State) : (s.endStream).answers = s.answers := rfl
@[simp] theorem State.endStream_reqs (s : State) : (s.endStream).reqs = s.reqs := rfl
@[simp] theorem State.endStream_draws (s : State) : (s.endStream).draws = s.draws := rfl
@[simp] theorem State.endStream_host (s : State) : (s.endStream).host = s.host := rfl
@[simp] theorem State.endStream_past (s : State) : (s.endStream).past = s.past := rfl

/-! ### nextChunk changes the stream only -/

@[simp] theorem State.nextChunk_br (c : Chunk) (s : State) : (State.nextChunk c s).br = s.br := by cases c <;> rfl
@[simp] theorem State.nextChunk_keys (c : Chunk) (s : State) : (State.nextChunk c s).keys = s.keys := by cases c <;> rfl
@[simp] theorem State.nextChunk_acc (c : Chunk) (s : State) : (State.nextChunk c s).acc = s.acc := by cases c <;> rfl
@[simp] theorem State.nextChunk_s2v (c : Chunk) (s : State) : (State.nextChunk c s).s2v = s.s2v := by cases c <;> rfl
@[simp] theorem State.nextChunk_busy (c : Chunk) (s : State) : (State.nextChunk c s).busy = s.busy := by cases c <;> rfl
@[simp] theorem State.nextChunk_cpc (c : Chunk) (s : State) : (State.nextChunk c s).cpc = s.cpc := by cases c <;> rfl
@[simp] theorem State.nextChunk_corrupt (c : Chunk) (s : State) : (State.nextChunk c s).corrupt = s.corrupt := by cases c <;> rfl
@[simp] theorem State.nextChunk_errcode (c : Chunk) (s : State) : (State.nextChunk c s).errcode = s.errcode := by cases c <;> rfl
@[simp] theorem State.nextChunk_errpc (c : Chunk) (s : State) : (State.nextChunk c s).errpc = s.errpc := by cases c <;> rfl
@[simp] theorem State.nextChunk_done (c : Chunk) (s : State) : (State.nextChunk c s).done = s.done := by cases c <;> rfl
@[simp] theorem State.nextChunk_err (c : Chunk) (s : State) : (State.nextChunk c s).err = s.err := by cases c <;> rfl
@[simp] theorem State.nextChunk_cptr (c : Chunk) (s : State) : (State.nextChunk c s).cptr = s.cptr := by cases c <;> rfl
@[simp] theorem State.nextChunk_irqen (c : Chunk) (s : State) : (State.nextChunk c s).irqen = s.irqen := by cases c <;> rfl
@[simp] theorem State.nextChunk_reqOut (c : Chunk) (s : State) : (State.nextChunk c s).reqOut = s.reqOut := by cases c <;> rfl
@[simp] theorem State.nextChunk_mem (c : Chunk) (s : State) : (State.nextChunk c s).mem = s.mem := by cases c <;> rfl
@[simp] theorem State.nextChunk_epoch (c : Chunk) (s : State) : (State.nextChunk c s).epoch = s.epoch := by cases c <;> rfl
@[simp] theorem State.nextChunk_answers (c : Chunk) (s : State) : (State.nextChunk c s).answers = s.answers := by cases c <;> rfl
@[simp] theorem State.nextChunk_reqs (c : Chunk) (s : State) : (State.nextChunk c s).reqs = s.reqs := by cases c <;> rfl
@[simp] theorem State.nextChunk_draws (c : Chunk) (s : State) : (State.nextChunk c s).draws = s.draws := by cases c <;> rfl
@[simp] theorem State.nextChunk_host (c : Chunk) (s : State) : (State.nextChunk c s).host = s.host := by cases c <;> rfl
@[simp] theorem State.nextChunk_past (c : Chunk) (s : State) : (State.nextChunk c s).past = s.past := by cases c <;> rfl

/-! ### loseReg changes the block registers only -/

@[simp] theorem State.loseReg_keys (s : State) (n : Nat) (r : Option BReg) : (s.loseReg n r).keys = s.keys := by cases r <;> rfl
@[simp] theorem State.loseReg_acc (s : State) (n : Nat) (r : Option BReg) : (s.loseReg n r).acc = s.acc := by cases r <;> rfl
@[simp] theorem State.loseReg_s2v (s : State) (n : Nat) (r : Option BReg) : (s.loseReg n r).s2v = s.s2v := by cases r <;> rfl
@[simp] theorem State.loseReg_stream (s : State) (n : Nat) (r : Option BReg) : (s.loseReg n r).stream = s.stream := by cases r <;> rfl
@[simp] theorem State.loseReg_busy (s : State) (n : Nat) (r : Option BReg) : (s.loseReg n r).busy = s.busy := by cases r <;> rfl
@[simp] theorem State.loseReg_cpc (s : State) (n : Nat) (r : Option BReg) : (s.loseReg n r).cpc = s.cpc := by cases r <;> rfl
@[simp] theorem State.loseReg_corrupt (s : State) (n : Nat) (r : Option BReg) : (s.loseReg n r).corrupt = s.corrupt := by cases r <;> rfl
@[simp] theorem State.loseReg_errcode (s : State) (n : Nat) (r : Option BReg) : (s.loseReg n r).errcode = s.errcode := by cases r <;> rfl
@[simp] theorem State.loseReg_errpc (s : State) (n : Nat) (r : Option BReg) : (s.loseReg n r).errpc = s.errpc := by cases r <;> rfl
@[simp] theorem State.loseReg_done (s : State) (n : Nat) (r : Option BReg) : (s.loseReg n r).done = s.done := by cases r <;> rfl
@[simp] theorem State.loseReg_err (s : State) (n : Nat) (r : Option BReg) : (s.loseReg n r).err = s.err := by cases r <;> rfl
@[simp] theorem State.loseReg_cptr (s : State) (n : Nat) (r : Option BReg) : (s.loseReg n r).cptr = s.cptr := by cases r <;> rfl
@[simp] theorem State.loseReg_irqen (s : State) (n : Nat) (r : Option BReg) : (s.loseReg n r).irqen = s.irqen := by cases r <;> rfl
@[simp] theorem State.loseReg_reqOut (s : State) (n : Nat) (r : Option BReg) : (s.loseReg n r).reqOut = s.reqOut := by cases r <;> rfl
@[simp] theorem State.loseReg_mem (s : State) (n : Nat) (r : Option BReg) : (s.loseReg n r).mem = s.mem := by cases r <;> rfl
@[simp] theorem State.loseReg_epoch (s : State) (n : Nat) (r : Option BReg) : (s.loseReg n r).epoch = s.epoch := by cases r <;> rfl
@[simp] theorem State.loseReg_answers (s : State) (n : Nat) (r : Option BReg) : (s.loseReg n r).answers = s.answers := by cases r <;> rfl
@[simp] theorem State.loseReg_reqs (s : State) (n : Nat) (r : Option BReg) : (s.loseReg n r).reqs = s.reqs := by cases r <;> rfl
@[simp] theorem State.loseReg_draws (s : State) (n : Nat) (r : Option BReg) : (s.loseReg n r).draws = s.draws := by cases r <;> rfl
@[simp] theorem State.loseReg_host (s : State) (n : Nat) (r : Option BReg) : (s.loseReg n r).host = s.host := by cases r <;> rfl
@[simp] theorem State.loseReg_past (s : State) (n : Nat) (r : Option BReg) : (s.loseReg n r).past = s.past := by cases r <;> rfl

/-! ### Writes of MEM change MEM only -/

theorem State.setByte_eq (s : State) (a : Nat) (b : Byte) : s.setByte a b = { s with mem := (s.setByte a b).mem } := by
  unfold State.setByte; split <;> rfl

theorem State.writeBytes_eq (s : State) (a : Nat) (bs : Bytes) :
    s.writeBytes a bs = { s with mem := (s.writeBytes a bs).mem } := by
  induction bs generalizing s a with
  | nil => rfl
  | cons b bs ih =>
    simp only [State.writeBytes]
    rw [ih, State.setByte_eq s a b]

theorem State.writeSome_eq (n i : Nat) (s : State) (a : Nat) (bs : Bytes) :
    State.writeSome n i s a bs = { s with mem := (State.writeSome n i s a bs).mem } := by
  induction bs generalizing i s a with
  | nil => rfl
  | cons b bs ih =>
    simp only [State.writeSome]
    rw [ih]
    split
    · rw [State.setByte_eq s a b]
    · rfl

@[simp] theorem State.setByte_br (s : State) (a : Nat) (b : Byte) : (s.setByte a b).br = s.br := by rw [State.setByte_eq s a b]
@[simp] theorem State.setByte_keys (s : State) (a : Nat) (b : Byte) : (s.setByte a b).keys = s.keys := by rw [State.setByte_eq s a b]
@[simp] theorem State.setByte_acc (s : State) (a : Nat) (b : Byte) : (s.setByte a b).acc = s.acc := by rw [State.setByte_eq s a b]
@[simp] theorem State.setByte_s2v (s : State) (a : Nat) (b : Byte) : (s.setByte a b).s2v = s.s2v := by rw [State.setByte_eq s a b]
@[simp] theorem State.setByte_stream (s : State) (a : Nat) (b : Byte) : (s.setByte a b).stream = s.stream := by rw [State.setByte_eq s a b]
@[simp] theorem State.setByte_busy (s : State) (a : Nat) (b : Byte) : (s.setByte a b).busy = s.busy := by rw [State.setByte_eq s a b]
@[simp] theorem State.setByte_cpc (s : State) (a : Nat) (b : Byte) : (s.setByte a b).cpc = s.cpc := by rw [State.setByte_eq s a b]
@[simp] theorem State.setByte_corrupt (s : State) (a : Nat) (b : Byte) : (s.setByte a b).corrupt = s.corrupt := by rw [State.setByte_eq s a b]
@[simp] theorem State.setByte_errcode (s : State) (a : Nat) (b : Byte) : (s.setByte a b).errcode = s.errcode := by rw [State.setByte_eq s a b]
@[simp] theorem State.setByte_errpc (s : State) (a : Nat) (b : Byte) : (s.setByte a b).errpc = s.errpc := by rw [State.setByte_eq s a b]
@[simp] theorem State.setByte_done (s : State) (a : Nat) (b : Byte) : (s.setByte a b).done = s.done := by rw [State.setByte_eq s a b]
@[simp] theorem State.setByte_err (s : State) (a : Nat) (b : Byte) : (s.setByte a b).err = s.err := by rw [State.setByte_eq s a b]
@[simp] theorem State.setByte_cptr (s : State) (a : Nat) (b : Byte) : (s.setByte a b).cptr = s.cptr := by rw [State.setByte_eq s a b]
@[simp] theorem State.setByte_irqen (s : State) (a : Nat) (b : Byte) : (s.setByte a b).irqen = s.irqen := by rw [State.setByte_eq s a b]
@[simp] theorem State.setByte_reqOut (s : State) (a : Nat) (b : Byte) : (s.setByte a b).reqOut = s.reqOut := by rw [State.setByte_eq s a b]
@[simp] theorem State.setByte_epoch (s : State) (a : Nat) (b : Byte) : (s.setByte a b).epoch = s.epoch := by rw [State.setByte_eq s a b]
@[simp] theorem State.setByte_answers (s : State) (a : Nat) (b : Byte) : (s.setByte a b).answers = s.answers := by rw [State.setByte_eq s a b]
@[simp] theorem State.setByte_reqs (s : State) (a : Nat) (b : Byte) : (s.setByte a b).reqs = s.reqs := by rw [State.setByte_eq s a b]
@[simp] theorem State.setByte_draws (s : State) (a : Nat) (b : Byte) : (s.setByte a b).draws = s.draws := by rw [State.setByte_eq s a b]
@[simp] theorem State.setByte_host (s : State) (a : Nat) (b : Byte) : (s.setByte a b).host = s.host := by rw [State.setByte_eq s a b]
@[simp] theorem State.setByte_past (s : State) (a : Nat) (b : Byte) : (s.setByte a b).past = s.past := by rw [State.setByte_eq s a b]

@[simp] theorem State.writeBytes_br (s : State) (a : Nat) (bs : Bytes) : (s.writeBytes a bs).br = s.br := by rw [State.writeBytes_eq s a bs]
@[simp] theorem State.writeBytes_keys (s : State) (a : Nat) (bs : Bytes) : (s.writeBytes a bs).keys = s.keys := by rw [State.writeBytes_eq s a bs]
@[simp] theorem State.writeBytes_acc (s : State) (a : Nat) (bs : Bytes) : (s.writeBytes a bs).acc = s.acc := by rw [State.writeBytes_eq s a bs]
@[simp] theorem State.writeBytes_s2v (s : State) (a : Nat) (bs : Bytes) : (s.writeBytes a bs).s2v = s.s2v := by rw [State.writeBytes_eq s a bs]
@[simp] theorem State.writeBytes_stream (s : State) (a : Nat) (bs : Bytes) : (s.writeBytes a bs).stream = s.stream := by rw [State.writeBytes_eq s a bs]
@[simp] theorem State.writeBytes_busy (s : State) (a : Nat) (bs : Bytes) : (s.writeBytes a bs).busy = s.busy := by rw [State.writeBytes_eq s a bs]
@[simp] theorem State.writeBytes_cpc (s : State) (a : Nat) (bs : Bytes) : (s.writeBytes a bs).cpc = s.cpc := by rw [State.writeBytes_eq s a bs]
@[simp] theorem State.writeBytes_corrupt (s : State) (a : Nat) (bs : Bytes) : (s.writeBytes a bs).corrupt = s.corrupt := by rw [State.writeBytes_eq s a bs]
@[simp] theorem State.writeBytes_errcode (s : State) (a : Nat) (bs : Bytes) : (s.writeBytes a bs).errcode = s.errcode := by rw [State.writeBytes_eq s a bs]
@[simp] theorem State.writeBytes_errpc (s : State) (a : Nat) (bs : Bytes) : (s.writeBytes a bs).errpc = s.errpc := by rw [State.writeBytes_eq s a bs]
@[simp] theorem State.writeBytes_done (s : State) (a : Nat) (bs : Bytes) : (s.writeBytes a bs).done = s.done := by rw [State.writeBytes_eq s a bs]
@[simp] theorem State.writeBytes_err (s : State) (a : Nat) (bs : Bytes) : (s.writeBytes a bs).err = s.err := by rw [State.writeBytes_eq s a bs]
@[simp] theorem State.writeBytes_cptr (s : State) (a : Nat) (bs : Bytes) : (s.writeBytes a bs).cptr = s.cptr := by rw [State.writeBytes_eq s a bs]
@[simp] theorem State.writeBytes_irqen (s : State) (a : Nat) (bs : Bytes) : (s.writeBytes a bs).irqen = s.irqen := by rw [State.writeBytes_eq s a bs]
@[simp] theorem State.writeBytes_reqOut (s : State) (a : Nat) (bs : Bytes) : (s.writeBytes a bs).reqOut = s.reqOut := by rw [State.writeBytes_eq s a bs]
@[simp] theorem State.writeBytes_epoch (s : State) (a : Nat) (bs : Bytes) : (s.writeBytes a bs).epoch = s.epoch := by rw [State.writeBytes_eq s a bs]
@[simp] theorem State.writeBytes_answers (s : State) (a : Nat) (bs : Bytes) : (s.writeBytes a bs).answers = s.answers := by rw [State.writeBytes_eq s a bs]
@[simp] theorem State.writeBytes_reqs (s : State) (a : Nat) (bs : Bytes) : (s.writeBytes a bs).reqs = s.reqs := by rw [State.writeBytes_eq s a bs]
@[simp] theorem State.writeBytes_draws (s : State) (a : Nat) (bs : Bytes) : (s.writeBytes a bs).draws = s.draws := by rw [State.writeBytes_eq s a bs]
@[simp] theorem State.writeBytes_host (s : State) (a : Nat) (bs : Bytes) : (s.writeBytes a bs).host = s.host := by rw [State.writeBytes_eq s a bs]
@[simp] theorem State.writeBytes_past (s : State) (a : Nat) (bs : Bytes) : (s.writeBytes a bs).past = s.past := by rw [State.writeBytes_eq s a bs]

@[simp] theorem State.writeSome_br (n i : Nat) (s : State) (a : Nat) (bs : Bytes) : (State.writeSome n i s a bs).br = s.br := by rw [State.writeSome_eq n i s a bs]
@[simp] theorem State.writeSome_keys (n i : Nat) (s : State) (a : Nat) (bs : Bytes) : (State.writeSome n i s a bs).keys = s.keys := by rw [State.writeSome_eq n i s a bs]
@[simp] theorem State.writeSome_acc (n i : Nat) (s : State) (a : Nat) (bs : Bytes) : (State.writeSome n i s a bs).acc = s.acc := by rw [State.writeSome_eq n i s a bs]
@[simp] theorem State.writeSome_s2v (n i : Nat) (s : State) (a : Nat) (bs : Bytes) : (State.writeSome n i s a bs).s2v = s.s2v := by rw [State.writeSome_eq n i s a bs]
@[simp] theorem State.writeSome_stream (n i : Nat) (s : State) (a : Nat) (bs : Bytes) : (State.writeSome n i s a bs).stream = s.stream := by rw [State.writeSome_eq n i s a bs]
@[simp] theorem State.writeSome_busy (n i : Nat) (s : State) (a : Nat) (bs : Bytes) : (State.writeSome n i s a bs).busy = s.busy := by rw [State.writeSome_eq n i s a bs]
@[simp] theorem State.writeSome_cpc (n i : Nat) (s : State) (a : Nat) (bs : Bytes) : (State.writeSome n i s a bs).cpc = s.cpc := by rw [State.writeSome_eq n i s a bs]
@[simp] theorem State.writeSome_corrupt (n i : Nat) (s : State) (a : Nat) (bs : Bytes) : (State.writeSome n i s a bs).corrupt = s.corrupt := by rw [State.writeSome_eq n i s a bs]
@[simp] theorem State.writeSome_errcode (n i : Nat) (s : State) (a : Nat) (bs : Bytes) : (State.writeSome n i s a bs).errcode = s.errcode := by rw [State.writeSome_eq n i s a bs]
@[simp] theorem State.writeSome_errpc (n i : Nat) (s : State) (a : Nat) (bs : Bytes) : (State.writeSome n i s a bs).errpc = s.errpc := by rw [State.writeSome_eq n i s a bs]
@[simp] theorem State.writeSome_done (n i : Nat) (s : State) (a : Nat) (bs : Bytes) : (State.writeSome n i s a bs).done = s.done := by rw [State.writeSome_eq n i s a bs]
@[simp] theorem State.writeSome_err (n i : Nat) (s : State) (a : Nat) (bs : Bytes) : (State.writeSome n i s a bs).err = s.err := by rw [State.writeSome_eq n i s a bs]
@[simp] theorem State.writeSome_cptr (n i : Nat) (s : State) (a : Nat) (bs : Bytes) : (State.writeSome n i s a bs).cptr = s.cptr := by rw [State.writeSome_eq n i s a bs]
@[simp] theorem State.writeSome_irqen (n i : Nat) (s : State) (a : Nat) (bs : Bytes) : (State.writeSome n i s a bs).irqen = s.irqen := by rw [State.writeSome_eq n i s a bs]
@[simp] theorem State.writeSome_reqOut (n i : Nat) (s : State) (a : Nat) (bs : Bytes) : (State.writeSome n i s a bs).reqOut = s.reqOut := by rw [State.writeSome_eq n i s a bs]
@[simp] theorem State.writeSome_epoch (n i : Nat) (s : State) (a : Nat) (bs : Bytes) : (State.writeSome n i s a bs).epoch = s.epoch := by rw [State.writeSome_eq n i s a bs]
@[simp] theorem State.writeSome_answers (n i : Nat) (s : State) (a : Nat) (bs : Bytes) : (State.writeSome n i s a bs).answers = s.answers := by rw [State.writeSome_eq n i s a bs]
@[simp] theorem State.writeSome_reqs (n i : Nat) (s : State) (a : Nat) (bs : Bytes) : (State.writeSome n i s a bs).reqs = s.reqs := by rw [State.writeSome_eq n i s a bs]
@[simp] theorem State.writeSome_draws (n i : Nat) (s : State) (a : Nat) (bs : Bytes) : (State.writeSome n i s a bs).draws = s.draws := by rw [State.writeSome_eq n i s a bs]
@[simp] theorem State.writeSome_host (n i : Nat) (s : State) (a : Nat) (bs : Bytes) : (State.writeSome n i s a bs).host = s.host := by rw [State.writeSome_eq n i s a bs]
@[simp] theorem State.writeSome_past (n i : Nat) (s : State) (a : Nat) (bs : Bytes) : (State.writeSome n i s a bs).past = s.past := by rw [State.writeSome_eq n i s a bs]

/-! ### The block register file -/

@[simp] theorem BRegs.get_set_same (b : BRegs) (r : BReg) (v : Block) : (b.set r v).get r = v := by cases r <;> rfl

theorem BRegs.get_set_other (b : BRegs) (r r' : BReg) (v : Block) (h : r' ≠ r) : (b.set r v).get r' = b.get r' := by
  cases r <;> cases r' <;> first | rfl | exact absurd rfl h

@[simp] theorem State.getBr_setBr_same (s : State) (r : BReg) (v : Block) : (s.setBr r v).getBr r = v :=
  BRegs.get_set_same s.br r v

theorem State.getBr_setBr_other (s : State) (r r' : BReg) (v : Block) (h : r' ≠ r) :
    (s.setBr r v).getBr r' = s.getBr r' := BRegs.get_set_other s.br r r' v h

@[simp] theorem State.spend_zero (s : State) : s.spend 0 = s := by cases s; simp [State.spend]

end Sys2Proof.Machine
end

