-- ==== Sys2Proof/Laws/Memory.lean ====
section
/-!
SUPPORT. MEM: a read after a write, the bytes a write leaves alone, and the canonical form kept by every write.
-/

namespace Sys2Proof.Machine

/-! ### The list of cells -/

@[simp] theorem Memory.lookup_insert_same (m : Memory) (a : Nat) (b : Byte) :
    Memory.lookup (Memory.insert m a b) a = some b := by
  induction m with
  | nil => simp [Memory.insert, Memory.lookup]
  | cons c m ih =>
    obtain ⟨k, c⟩ := c
    simp only [Memory.insert]
    split
    · simp [Memory.lookup]
    · split
      · simp [Memory.lookup]
      · have : k ≠ a := by omega
        simp [Memory.lookup, this, ih]

theorem Memory.lookup_insert_other (m : Memory) (a x : Nat) (b : Byte) (h : x ≠ a) :
    Memory.lookup (Memory.insert m a b) x = Memory.lookup m x := by
  have h' : a ≠ x := Ne.symm h
  induction m with
  | nil => simp [Memory.insert, Memory.lookup, h']
  | cons c m ih =>
    obtain ⟨k, c⟩ := c
    simp only [Memory.insert]
    split
    · simp [Memory.lookup, h']
    · split
      · subst_vars; simp [Memory.lookup, h']
      · simp [Memory.lookup, ih]

theorem Memory.wfFrom_mono {lo hi : Nat} (h : hi ≤ lo) {m : Memory} (hw : Memory.wfFrom lo m = true) :
    Memory.wfFrom hi m = true := by
  cases m with
  | nil => rfl
  | cons c m =>
    simp only [Memory.wfFrom, Bool.and_eq_true, decide_eq_true_eq] at hw ⊢
    exact ⟨⟨by omega, hw.1.2⟩, hw.2⟩

theorem Memory.wfFrom_insert {lo a : Nat} {m : Memory} (b : Byte) (hw : Memory.wfFrom lo m = true) (hlo : lo ≤ a)
    (ha : a < Config.memSize) : Memory.wfFrom lo (Memory.insert m a b) = true := by
  induction m generalizing lo with
  | nil => simp [Memory.insert, Memory.wfFrom, hlo, ha]
  | cons c m ih =>
    obtain ⟨k, c⟩ := c
    simp only [Memory.wfFrom, Bool.and_eq_true, decide_eq_true_eq] at hw
    simp only [Memory.insert]
    split
    · simp only [Memory.wfFrom, Bool.and_eq_true, decide_eq_true_eq]
      exact ⟨⟨hlo, ha⟩, ⟨by omega, hw.1.2⟩, hw.2⟩
    · split
      · subst_vars
        simp only [Memory.wfFrom, Bool.and_eq_true, decide_eq_true_eq]
        exact ⟨⟨hlo, ha⟩, hw.2⟩
      · simp only [Memory.wfFrom, Bool.and_eq_true, decide_eq_true_eq]
        exact ⟨hw.1, ih hw.2 (by omega)⟩

/-- Writing one byte keeps the canonical form. -/
theorem Memory.wf_setByte {s : State} (a : Nat) (b : Byte) (h : Memory.wf s.mem = true) :
    Memory.wf (s.setByte a b).mem = true := by
  unfold State.setByte
  split
  · exact Memory.wfFrom_insert b h (Nat.zero_le a) ‹_›
  · exact h

/-- Writing a byte string keeps the canonical form. -/
theorem Memory.wf_writeBytes {s : State} (a : Nat) (bs : Bytes) (h : Memory.wf s.mem = true) :
    Memory.wf (s.writeBytes a bs).mem = true := by
  induction bs generalizing s a with
  | nil => exact h
  | cons b bs ih => exact ih (a + 1) (Memory.wf_setByte a b h)

/-- Writing part of a byte string keeps the canonical form. -/
theorem Memory.wf_writeSome {s : State} (n i a : Nat) (bs : Bytes) (h : Memory.wf s.mem = true) :
    Memory.wf (State.writeSome n i s a bs).mem = true := by
  induction bs generalizing i s a with
  | nil => exact h
  | cons b bs ih =>
    simp only [State.writeSome]
    split
    · exact ih (i + 1) (a + 1) (Memory.wf_setByte a b h)
    · exact ih (i + 1) (a + 1) h

theorem Memory.wf_reset : Memory.wf State.reset.mem = true := rfl

/-! ### Bytes -/

theorem State.byteAt_congr {s t : State} (hm : t.mem = s.mem) (he : t.epoch = s.epoch) (a : Nat) :
    t.byteAt a = s.byteAt a := by simp [State.byteAt, hm, he]

theorem State.byteAt_setByte_same (s : State) {a : Nat} (b : Byte) (h : a < Config.memSize) :
    (s.setByte a b).byteAt a = b := by simp [State.setByte, State.byteAt, h]

theorem State.byteAt_setByte_other (s : State) {a x : Nat} (b : Byte) (h : x ≠ a) :
    (s.setByte a b).byteAt x = s.byteAt x := by
  unfold State.setByte
  split
  · simp [State.byteAt, Memory.lookup_insert_other _ _ _ _ h]
  · rfl

/-- A write leaves every byte outside its range alone. -/
theorem State.byteAt_writeBytes_outside (s : State) (a x : Nat) (bs : Bytes) (h : x < a ∨ a + bs.length ≤ x) :
    (s.writeBytes a bs).byteAt x = s.byteAt x := by
  induction bs generalizing s a with
  | nil => rfl
  | cons b bs ih =>
    simp only [List.length_cons] at h
    simp only [State.writeBytes]
    rw [ih _ _ (by omega), State.byteAt_setByte_other s b (by omega)]

/-- A write in MEM stores byte `i` of its string at `a + i`. -/
theorem State.byteAt_writeBytes_inside (s : State) (a i : Nat) (bs : Bytes) (hl : a + bs.length ≤ Config.memSize)
    (hi : i < bs.length) : (s.writeBytes a bs).byteAt (a + i) = bs[i] := by
  induction bs generalizing s a i with
  | nil => simp at hi
  | cons b bs ih =>
    simp only [List.length_cons] at hl hi
    simp only [State.writeBytes]
    cases i with
    | zero =>
      rw [State.byteAt_writeBytes_outside _ _ _ _ (by omega)]
      exact State.byteAt_setByte_same s b (by omega)
    | succ i =>
      rw [show a + (i + 1) = a + 1 + i by omega, ih _ _ _ (by omega) (by omega)]
      simp

/-- A partial write leaves every byte outside its range alone. -/
theorem State.byteAt_writeSome_outside (n i : Nat) (s : State) (a x : Nat) (bs : Bytes)
    (h : x < a ∨ a + bs.length ≤ x) : (State.writeSome n i s a bs).byteAt x = s.byteAt x := by
  induction bs generalizing i s a with
  | nil => rfl
  | cons b bs ih =>
    simp only [List.length_cons] at h
    simp only [State.writeSome]
    rw [ih _ _ _ (by omega)]
    split
    · exact State.byteAt_setByte_other s b (by omega)
    · rfl

/-- A partial write leaves each byte of its range as it was, or as the string has it. -/
theorem State.byteAt_writeSome_inside (n k : Nat) (s : State) (a i : Nat) (bs : Bytes)
    (hl : a + bs.length ≤ Config.memSize) (hi : i < bs.length) :
    (State.writeSome n k s a bs).byteAt (a + i) = s.byteAt (a + i) ∨
      (State.writeSome n k s a bs).byteAt (a + i) = bs[i] := by
  induction bs generalizing k s a i with
  | nil => simp at hi
  | cons b bs ih =>
    simp only [List.length_cons] at hl hi
    simp only [State.writeSome]
    cases i with
    | zero =>
      rw [State.byteAt_writeSome_outside _ _ _ _ _ _ (by omega)]
      split
      · exact .inr (State.byteAt_setByte_same s b (by omega))
      · exact .inl rfl
    | succ i =>
      rw [show a + (i + 1) = a + 1 + i by omega]
      rcases ih (k + 1) (if Config.landed n k then s.setByte a b else s) (a + 1) i (by omega) (by omega) with h | h
      · refine .inl (h.trans ?_)
        split
        · exact State.byteAt_setByte_other s b (by omega)
        · rfl
      · exact .inr (by simpa using h)

/-! ### Byte strings -/

@[simp] theorem State.readBytes_length (s : State) (a n : Nat) : (s.readBytes a n).length = n := by
  induction n generalizing a with
  | zero => rfl
  | succ n ih => simp [State.readBytes, ih]

theorem State.readBytes_getElem (s : State) (a n i : Nat) (h : i < (s.readBytes a n).length) :
    (s.readBytes a n)[i] = s.byteAt (a + i) := by
  induction n generalizing a i with
  | zero => simp [State.readBytes] at h
  | succ n ih =>
    cases i with
    | zero => rfl
    | succ i =>
      simp only [State.readBytes, List.getElem_cons_succ]
      rw [ih]
      congr 1
      omega

/-- Two states with the same bytes in a range read the same string from it. -/
theorem State.readBytes_congr {s t : State} {a n : Nat} (h : ∀ i, i < n → t.byteAt (a + i) = s.byteAt (a + i)) :
    t.readBytes a n = s.readBytes a n := by
  apply List.ext_getElem (by simp)
  intro i h1 h2
  rw [State.readBytes_getElem, State.readBytes_getElem]
  exact h i (by simpa using h1)

/-- Reading back the range just written gives the string written. -/
theorem State.readBytes_writeBytes (s : State) (a : Nat) (bs : Bytes) (hl : a + bs.length ≤ Config.memSize) :
    (s.writeBytes a bs).readBytes a bs.length = bs := by
  apply List.ext_getElem (by simp)
  intro i h1 h2
  rw [State.readBytes_getElem, State.byteAt_writeBytes_inside _ _ _ _ hl h2]

end Sys2Proof.Machine
end

