-- ==== Sys2Proof/Laws/Plan.lean ====
section
/-!
SUPPORT. What carrying out a command can do: the provider's verdict said through its answers, every command as its
plan carried out, and the cases of that.
-/

namespace Sys2Proof.Machine

/-! ### The provider's verdict -/

/-- What a verdict says of the answers: all granted; or so many granted and the next one a failure, or none. -/
theorem State.verdictFrom_spec (s : State) (j n : Nat) :
    match s.verdictFrom j n with
    | .granted => ∀ k, j ≤ k → k < j + n → s.answer k = .ok
    | .failed m => j ≤ m ∧ m < j + n ∧ s.answer m = .fail
    | .silent => ∃ m, j ≤ m ∧ m < j + n ∧ s.answer m = .silent := by
  induction n generalizing j with
  | zero => simp [State.verdictFrom]; intro k h1 h2; omega
  | succ n ih =>
    rw [State.verdictFrom]
    cases ha : s.answer j with
    | ok =>
      have := ih (j + 1)
      revert this
      cases s.verdictFrom (j + 1) n with
      | granted =>
        intro h k h1 h2
        by_cases hk : k = j
        · exact hk ▸ ha
        · exact h k (by omega) (by omega)
      | failed m => exact fun h => ⟨by omega, by omega, h.2.2⟩
      | silent => exact fun ⟨m, h⟩ => ⟨m, by omega, by omega, h.2.2⟩
    | fail => exact ⟨le_refl j, by omega, ha⟩
    | silent => exact ⟨j, le_refl j, by omega, ha⟩

/-- Every request is granted exactly when each answer is. -/
theorem State.verdict_granted_iff (s : State) (n : Nat) :
    s.verdict n = .granted ↔ ∀ k, k < n → s.answer k = .ok := by
  have h := State.verdictFrom_spec s 0 n
  unfold State.verdict
  constructor
  · intro hv k hk
    rw [hv] at h
    exact h k (Nat.zero_le k) (by omega)
  · intro hk
    cases hv : s.verdictFrom 0 n with
    | granted => rfl
    | failed m =>
      rw [hv] at h
      have := hk m (by omega)
      simp [h.2.2] at this
    | silent =>
      rw [hv] at h
      obtain ⟨m, _, h2, h3⟩ := h
      have := hk m (by omega)
      simp [h3] at this

@[simp] theorem State.verdict_zero (s : State) : s.verdict 0 = .granted := rfl

/-! ### Commands and their plans -/

/-- How far CPC moves when a command ends without error: END keeps it (R181, R183). -/
def Instr.moves (i : Instr) : Nat := match i with | .endc => 0 | _ => i.op.bytes

/-- Every command is its plan carried out. -/
theorem exec_eq_runPlan (i : Instr) (s : State) : exec i s = runPlan s (Instr.moves i) (planOf i s) := by
  cases i <;> rfl

/-- What a plan carried out can do. -/
theorem runPlan_cases {s t : State} {n : Nat} {p : Plan} (h : runPlan s n p = .next t) :
    (∃ e u, p = .stop e u ∧ t = u.trap e) ∨
    (∃ j, p = .go j ∧ j.base.verdict j.reqs = .granted ∧ t = j.finish n) ∨
    (∃ j k, p = .go j ∧ j.base.verdict j.reqs = .failed k ∧ t = j.fail k) ∨
    (∃ j, p = .go j ∧ j.base.verdict j.reqs = .silent ∧ t = { s with reqOut := true }) := by
  cases p with
  | stop e u => left; exact ⟨e, u, rfl, by simpa [runPlan] using h.symm⟩
  | go j =>
    right
    simp only [runPlan] at h
    cases hv : j.base.verdict j.reqs with
    | granted => left; exact ⟨j, rfl, hv, by simpa [hv] using h.symm⟩
    | failed k => right; left; exact ⟨j, k, rfl, hv, by simpa [hv] using h.symm⟩
    | silent => right; right; exact ⟨j, rfl, hv, by simpa [hv] using h.symm⟩

/-- A plan whose checks pass and whose requests are granted is its job finished. -/
theorem runPlan_granted {s : State} {n : Nat} {j : Job} (h : j.base.verdict j.reqs = .granted) :
    runPlan s n (.go j) = .next (j.finish n) := by simp [runPlan, h]

/-- A gated plan, the state not corrupted. -/
theorem gated_ok {s : State} (h : s.corrupt = false) (p : Plan) : gated s p = p := by simp [gated, h]

/-- A gated plan, the state corrupted. -/
theorem gated_corrupt {s : State} (h : s.corrupt = true) (p : Plan) : gated s p = .stop .corruptState s := by
  simp [gated, h]

/-! ### The parts of a job -/

@[simp] theorem Job.plain_base (s t : State) : (Job.plain s t).base = s := rfl
@[simp] theorem Job.plain_reqs (s t : State) : (Job.plain s t).reqs = 0 := rfl
@[simp] theorem Job.plain_reg (s t : State) : (Job.plain s t).reg = none := rfl
@[simp] theorem Job.plain_bytes (s t : State) : (Job.plain s t).bytes = [] := rfl
@[simp] theorem Job.plain_zeroed (s t : State) : (Job.plain s t).zeroed = false := rfl
@[simp] theorem Job.plain_final (s t : State) : (Job.plain s t).final = t := rfl
@[simp] theorem Job.plain_raises (s t : State) : (Job.plain s t).raises = none := rfl

end Sys2Proof.Machine
end

