-- ==== Sys2Proof/Laws/Jobs.lean ====
section
/-!
SUPPORT. What the plan of every command is: which errors its checks raise and with what state, and what its job reads,
writes and leaves alone.  Said once for all commands, so that a proof over every command need not unfold one.
-/

namespace Sys2Proof.Machine

/-! ### Lengths -/

@[simp] theorem keyStream_length (e : Block → Block) (q : Block) (j n : Nat) : (keyStream e q j n).length = 16 * n := by
  induction n generalizing j with
  | zero => rfl
  | succ n ih => simp [keyStream, ih]; omega

@[simp] theorem ctr_length (e : Block → Block) (q : Block) (d : Bytes) : (ctr e q d).length = d.length := by
  unfold ctr
  rw [xorBytes_length, keyStream_length]
  omega

@[simp] theorem sivSeal_length (bc : Bytes → Block → Block) (k : Keys) (ads : List Bytes) (p : Bytes) :
    (sivSeal bc k ads p).length = 16 + p.length := by simp [sivSeal]

theorem sivOpen_length {bc : Bytes → Block → Block} {k : Keys} {ads : List Bytes} {x p : Bytes}
    (h : sivOpen bc k ads x = some p) : p.length = x.length - 16 := by
  unfold sivOpen at h
  dsimp only at h
  split at h
  · simpa using congrArg List.length (Option.some.inj h).symm
  · exact absurd h (by simp)

@[simp] theorem operand_length (s : State) (addr len : Word) : (s.operand addr len).length = len.toNat := by
  simp [State.operand]

/-! ### Writes leave every field but MEM alone -/

/-- A write changes MEM only. -/
theorem writeBytes_eq (s : State) (a : Nat) (bs : Bytes) :
    s.writeBytes a bs = { s with mem := (s.writeBytes a bs).mem } := by
  induction bs generalizing s a with
  | nil => rfl
  | cons b bs ih =>
    simp only [State.writeBytes]
    rw [ih]
    unfold State.setByte
    split <;> rfl

/-- A partial write changes MEM only. -/
theorem writeSome_eq (n i : Nat) (s : State) (a : Nat) (bs : Bytes) :
    State.writeSome n i s a bs = { s with mem := (State.writeSome n i s a bs).mem } := by
  induction bs generalizing s a i with
  | nil => rfl
  | cons b bs ih =>
    simp only [State.writeSome]
    rw [ih]
    unfold State.setByte
    split
    · split <;> rfl
    · rfl

/-! ### The plans -/

/-- The errors that a check raises with nothing changed (R463). -/
def isCheck : Err → Bool
  | .corruptState => true
  | .align => true
  | .addr => true
  | .noKey => true
  | .sequence => true
  | .chunkSequence => true
  | .pmacLimit => true
  | .adLimit => true
  | .integrity => true
  | _ => false

/-- A command whose check fails: nothing is changed, or the stream ends with its counter exhausted (R463, R425). -/
def StopFacts (i : Instr) (s : State) (e : Err) (t : State) : Prop :=
  (t = s ∧ isCheck e = true) ∨
    (t = s.endStream ∧ e = .counterOverflow ∧ s.stream.state = .active ∧ writesStream i = true ∧
      importsKey i = false)

/-- What the job of a command is. -/
structure JobFacts (i : Instr) (s : State) (j : Job) : Prop where
  base : j.base = if importsKey i then { s.zeroize with corrupt := false } else s
  reg : j.reg = target i
  zeroed : j.zeroed = importsKey i
  dst : j.dst = (destination i).1
  len : j.bytes.length = (destination i).2
  legal : j.dst + j.bytes.length ≤ Config.memSize
  zeros : opensMessage i = true → ∀ b ∈ j.bytes, b = 0#8
  written : ∃ v : Bytes, v.length = j.bytes.length ∧ (opensMessage i = false → v = j.bytes) ∧
    j.final.mem = (s.writeBytes j.dst v).mem
  br : ∀ r, target i ≠ some r → j.final.br.get r = s.br.get r
  keys : importsKey i = false → i ≠ .kclear → j.final.keys = s.keys
  stream : writesStream i = false → j.final.stream = s.stream
  ctr : restartsStream i = false → j.final.stream.ctr = s.stream.ctr ∨
    (s.stream.state = .active ∧ j.final.stream.state = .active ∧ s.stream.ctr ≠ 0xFFFFFFFF#32 ∧
      j.final.stream.ctr = s.stream.ctr + 1#32)
  raises : j.raises = none ∨ (j.raises = some .integrity ∧ opensMessage i = true ∧ j.final.stream = s.stream) ∨
    (j.raises = some .invalidKey ∧ importsKey i = true ∧ j.final = { s.zeroize with corrupt := false })
  busy : i ≠ .endc → j.final.busy = s.busy
  done : i ≠ .endc → j.final.done = s.done
  err : j.final.err = s.err
  cpc : j.final.cpc = s.cpc
  errcode : j.final.errcode = s.errcode
  errpc : j.final.errpc = s.errpc
  cptr : j.final.cptr = s.cptr
  irqen : j.final.irqen = s.irqen
  reqOut : j.final.reqOut = s.reqOut
  epoch : j.final.epoch = s.epoch
  answers : j.final.answers = s.answers
  reqs : j.final.reqs = s.reqs
  draws : j.final.draws = s.draws
  host : j.final.host = s.host
  past : j.final.past = s.past

/-- What a plan is: an error at a check, or a job. -/
def PlanFacts (i : Instr) (s : State) : Plan → Prop
  | .stop e t => StopFacts i s e t
  | .go j => JobFacts i s j

theorem PlanFacts.check {i : Instr} {s : State} {e : Err} (h : isCheck e = true) : PlanFacts i s (.stop e s) :=
  .inl ⟨rfl, h⟩

theorem PlanFacts.gated {i : Instr} {s : State} {p : Plan} (h : PlanFacts i s p) : PlanFacts i s (gated s p) := by
  unfold Machine.gated
  split
  · exact .check rfl
  · exact h

/-- The `if` of a check: an error, or the rest of the plan. -/
theorem PlanFacts.ite {i : Instr} {s : State} {b : Prop} [Decidable b] {e : Err} {p : Plan} (he : isCheck e = true)
    (h : ¬b → PlanFacts i s p) : PlanFacts i s (if b then .stop e s else p) := by
  split
  · exact .check he
  · exact h ‹_›

theorem get_set_same (b : BRegs) (r : BReg) (v : Block) : (b.set r v).get r = v := by cases r <;> rfl

theorem get_set_other (b : BRegs) {r q : BReg} (v : Block) (h : q ≠ r) : (b.set r v).get q = b.get q := by
  cases r <;> cases q <;> first | rfl | exact absurd rfl h

/-- A job that makes no difference to MEM. -/
theorem written_nothing (s : State) : ∃ v : Bytes, v.length = 0 ∧ v = [] ∧ s.mem = (s.writeBytes 0 v).mem :=
  ⟨[], rfl, rfl, rfl⟩

theorem planFacts_endc (s : State) : PlanFacts .endc s (planEnd s) := by
  constructor <;> first | rfl | simp [Job.plain, target, opensMessage, State.writeBytes]

theorem planFacts_nop (s : State) : PlanFacts .nop s (planNop s) := by
  constructor <;> first | rfl | simp [Job.plain, target, opensMessage, State.writeBytes]

theorem planFacts_kclear (s : State) : PlanFacts .kclear s (planKclear s) := by
  constructor <;> first | rfl | simp [Job.plain, target, opensMessage, State.writeBytes, restartsStream, writesStream]

/-- A job that only writes the command's register. -/
theorem jobFacts_reg {i : Instr} {s : State} {rd : BReg} (v : Block) (ht : target i = some rd)
    (hd : destination i = (0, 0)) (hi : importsKey i = false) (ho : opensMessage i = false) :
    JobFacts i s { Job.plain s (s.setBr rd v) with reg := some rd } := by
  constructor <;> first | rfl | simp_all [Job.plain, State.writeBytes]
  intro r hr
  exact get_set_other _ _ (Ne.symm hr)

theorem planFacts_bclr (rd : BReg) (s : State) : PlanFacts (.bclr rd) s (planBclr rd s) :=
  .gated (jobFacts_reg _ rfl rfl rfl rfl)

theorem planFacts_bmov (rd rs : BReg) (s : State) : PlanFacts (.bmov rd rs) s (planBmov rd rs s) :=
  .gated (jobFacts_reg _ rfl rfl rfl rfl)

theorem planFacts_bxor (rd rs : BReg) (s : State) : PlanFacts (.bxor rd rs) s (planBxor rd rs s) :=
  .gated (jobFacts_reg _ rfl rfl rfl rfl)

theorem planFacts_bdbl (rd rs : BReg) (s : State) : PlanFacts (.bdbl rd rs) s (planBdbl rd rs s) :=
  .gated (jobFacts_reg _ rfl rfl rfl rfl)

theorem planFacts_ivq (rd rs : BReg) (s : State) : PlanFacts (.ivq rd rs) s (planIvq rd rs s) :=
  .gated (jobFacts_reg _ rfl rfl rfl rfl)

theorem planFacts_bld (rd : BReg) (addr : Word) (s : State) : PlanFacts (.bld rd addr) s (planBld rd addr s) :=
  .gated (.ite rfl fun _ => jobFacts_reg _ rfl rfl rfl rfl)

/-- A job that writes a string to MEM and nothing else. -/
theorem jobFacts_store {i : Instr} {s : State} {a n : Nat} (v : Bytes) (ht : target i = none)
    (hd : destination i = (a, v.length)) (hl : a + v.length ≤ Config.memSize) (hi : importsKey i = false)
    (ho : opensMessage i = false) :
    JobFacts i s { Job.plain s (s.writeBytes a v) with reqs := n, dst := a, bytes := v } := by
  have hw := writeBytes_eq s a v
  constructor
  all_goals dsimp only [Job.plain]
  case base => rw [hi]; rfl
  case reg => exact ht.symm
  case zeroed => exact hi.symm
  case dst => rw [hd]
  case len => rw [hd]
  case legal => exact hl
  case zeros => simp [ho]
  case written => exact ⟨v, rfl, fun _ => rfl, rfl⟩
  case raises => exact .inl rfl
  case ctr => exact fun _ => .inl (by rw [hw])
  all_goals rw [hw]
  all_goals first | rfl | exact fun _ _ => rfl | exact fun _ => rfl

theorem legal_iff (a n : Nat) : legal a n = true ↔ a + n ≤ Config.memSize := by simp [legal]

theorem planFacts_bst (rs : BReg) (addr : Word) (s : State) : PlanFacts (.bst rs addr) s (planBst rs addr s) := by
  refine .gated (.ite rfl fun h => ?_)
  have h' : addr.toNat + 16 ≤ Config.memSize := (legal_iff _ _).1 (by simpa only [Bool.not_eq_true, Bool.not_eq_false'] using h)
  exact jobFacts_store _ rfl rfl (by rw [blockBytes_length]; exact h') rfl rfl

theorem planFacts_ctrx (rs : BReg) (src len dst : Word) (s : State) :
    PlanFacts (.ctrx rs src len dst) s (planCtrx rs src len dst s) := by
  refine .gated (.ite rfl fun _ => .ite rfl fun h => .ite rfl fun _ => ?_)
  have h' : dst.toNat + len.toNat ≤ Config.memSize := by simpa [legalRange, legal] using h
  exact jobFacts_store _ rfl (by simp [destination]) (by simpa using h') rfl rfl

/-- A job that changes the engines only, and a register. -/
theorem jobFacts_engine {i : Instr} {s : State} {n : Nat} (a : Acc) (d : S2v) (b : BRegs)
    (hd : destination i = (0, 0)) (hi : importsKey i = false) (ho : opensMessage i = false)
    (hb : ∀ r, target i ≠ some r → b.get r = s.br.get r) :
    JobFacts i s { Job.plain s { s with acc := a, s2v := d, br := b } with reqs := n, reg := target i } := by
  constructor <;> first | rfl | simp_all [Job.plain, State.writeBytes]

theorem planFacts_mreset (s : State) : PlanFacts .mreset s (planMreset s) :=
  .gated (.ite rfl fun _ => jobFacts_engine _ s.s2v s.br rfl rfl rfl fun _ _ => rfl)

theorem planFacts_mupdate (addr len : Word) (s : State) : PlanFacts (.mupdate addr len) s (planMupdate addr len s) :=
  .gated (.ite rfl fun _ => .ite rfl fun _ => .ite rfl fun _ => .ite rfl fun _ =>
    jobFacts_engine _ s.s2v s.br rfl rfl rfl fun _ _ => rfl)

theorem planFacts_mfinish (rd : BReg) (s : State) : PlanFacts (.mfinish rd) s (planMfinish rd s) :=
  .gated (.ite rfl fun _ => jobFacts_engine _ s.s2v _ rfl rfl rfl fun _ h =>
    get_set_other _ _ fun he => h (congrArg some he.symm))

theorem planFacts_s2vinit (s : State) : PlanFacts .s2vinit s (planS2vinit s) :=
  .gated (.ite rfl fun _ => jobFacts_engine _ _ s.br rfl rfl rfl fun _ _ => rfl)

theorem planFacts_s2vad (addr len : Word) (s : State) : PlanFacts (.s2vad addr len) s (planS2vad addr len s) :=
  .gated (.ite rfl fun _ => .ite rfl fun _ => .ite rfl fun _ => .ite rfl fun _ =>
    jobFacts_engine _ _ s.br rfl rfl rfl fun _ _ => rfl)

theorem planFacts_s2vfin (rd : BReg) (addr len : Word) (s : State) :
    PlanFacts (.s2vfin rd addr len) s (planS2vfin rd addr len s) :=
  .gated (.ite rfl fun _ => .ite rfl fun _ => .ite rfl fun _ => jobFacts_engine _ _ _ rfl rfl rfl fun _ h =>
    get_set_other _ _ fun he => h (congrArg some he.symm))

theorem planFacts_stinit (dir : Dir) (start : Word) (s : State) :
    PlanFacts (.stinit dir start) s (planStinit dir start s) := by
  refine .gated (.ite rfl fun _ => .ite rfl fun _ => ?_)
  constructor <;> first | rfl | simp [Job.plain, target, opensMessage, State.writeBytes, restartsStream,
    writesStream]

theorem planFacts_kimport (mode : KeyMode) (addr len : Word) (s : State) :
    PlanFacts (.kimport mode addr len) s (planKimport mode addr len s) := by
  refine .ite rfl fun _ => ?_
  dsimp only
  split <;> constructor <;> first | rfl | simp [Job.plain, target, opensMessage, State.writeBytes,
    restartsStream, writesStream, importsKey]

/-! ### Whole-message commands -/

/-- What a whole-message command may do last: nothing, or the stream moved on. -/
structure AfterFacts (i : Instr) (s : State) (after : State → State) : Prop where
  only : ∀ t : State, after t = { t with stream := (after t).stream }
  keeps : writesStream i = false → ∀ t : State, (after t).stream = t.stream
  ctr : ∀ t : State, t.stream = s.stream → (after t).stream.ctr = s.stream.ctr ∨
    (s.stream.state = .active ∧ (after t).stream.state = .active ∧ s.stream.ctr ≠ 0xFFFFFFFF#32 ∧
      (after t).stream.ctr = s.stream.ctr + 1#32)

theorem afterFacts_id (i : Instr) (s : State) : AfterFacts i s id :=
  ⟨fun _ => rfl, fun _ _ => rfl, fun _ h => .inl (congrArg Stream.ctr h)⟩

theorem afterFacts_nextChunk {i : Instr} {s : State} {chunk : Chunk} (hw : writesStream i = true)
    (ha : s.stream.state = .active) (hx : s.ctrExhausted chunk = false) : AfterFacts i s (State.nextChunk chunk) := by
  refine ⟨fun t => by cases chunk <;> rfl, fun h => by simp [hw] at h, fun t ht => ?_⟩
  cases chunk with
  | last => exact .inl (by simp [State.nextChunk, State.endStream, ht])
  | more =>
    refine .inr ⟨ha, by simp [State.nextChunk, ht, ha], ?_, by simp [State.nextChunk, ht]⟩
    simpa [State.ctrExhausted] using hx

theorem jobFacts_seal {i : Instr} {s : State} {ads : List Bytes} {p : Bytes} {dst : Nat} {after : State → State}
    (ht : target i = none) (hd : destination i = (dst, 16 + p.length)) (hl : dst + (16 + p.length) ≤ Config.memSize)
    (hi : importsKey i = false) (ho : opensMessage i = false) (hf : AfterFacts i s after) :
    JobFacts i s (sealJob ads p dst after s) := by
  have hw := writeBytes_eq s dst (sivSeal Config.bc s.keys ads p)
  have h1 := hf.only (s.writeBytes dst (sivSeal Config.bc s.keys ads p)).s2vIdle
  have h2 := fun h => hf.keeps h (s.writeBytes dst (sivSeal Config.bc s.keys ads p)).s2vIdle
  have h3 := hf.ctr (s.writeBytes dst (sivSeal Config.bc s.keys ads p)).s2vIdle (by rw [hw]; rfl)
  constructor
  all_goals dsimp only [sealJob, Job.plain]
  case base => rw [hi]; rfl
  case reg => exact ht.symm
  case zeroed => exact hi.symm
  case dst => rw [hd]
  case len => simp [hd]
  case legal => simpa using hl
  case zeros => simp [ho]
  case written => exact ⟨_, rfl, fun _ => rfl, by rw [h1]; rfl⟩
  case raises => exact .inl rfl
  case ctr => exact fun _ => h3
  case stream => intro h; rw [h2 h, hw]; rfl
  all_goals (rw [h1]; dsimp only [State.s2vIdle, State.macIdle]; rw [hw])
  all_goals first | rfl | exact fun _ _ => rfl | exact fun _ => rfl

theorem jobFacts_open {i : Instr} {s : State} {ads : List Bytes} {x : Bytes} {dst : Nat} {after : State → State}
    (ht : target i = none) (hx : 16 ≤ x.length) (hd : destination i = (dst, openLen x.length))
    (hl : dst + openLen x.length ≤ Config.memSize) (hi : importsKey i = false) (ho : opensMessage i = true)
    (hf : AfterFacts i s after) : JobFacts i s (openJob ads x dst after s) := by
  unfold openJob
  cases hp : sivOpen Config.bc s.keys ads x with
  | some p =>
    have hpl : p.length = openLen x.length := by rw [sivOpen_length hp, openLen, if_pos hx]
    have hw := writeBytes_eq s dst p
    have h1 := hf.only (s.writeBytes dst p).s2vIdle
    have h2 := fun h => hf.keeps h (s.writeBytes dst p).s2vIdle
    have h3 := hf.ctr (s.writeBytes dst p).s2vIdle (by rw [hw]; rfl)
    constructor
    all_goals dsimp only
    case base => rw [hi]; rfl
    case reg => exact ht.symm
    case zeroed => exact hi.symm
    case dst => rw [hd]
    case len => simp [hd]
    case legal => simpa using hl
    case zeros => simp
    case written => exact ⟨p, by simp [hpl], by simp [ho], by rw [h1]; rfl⟩
    case raises => exact .inl rfl
    case ctr => exact fun _ => h3
    case stream => intro h; rw [h2 h, hw]; rfl
    all_goals (rw [h1]; dsimp only [State.s2vIdle, State.macIdle]; rw [hw])
    all_goals first | rfl | exact fun _ _ => rfl | exact fun _ => rfl
  | none =>
    have hw := writeBytes_eq s dst (List.replicate (openLen x.length) 0#8)
    constructor
    all_goals dsimp only
    case base => rw [hi]; rfl
    case reg => exact ht.symm
    case zeroed => exact hi.symm
    case dst => rw [hd]
    case len => simp [hd]
    case legal => simpa using hl
    case zeros => simp
    case written => exact ⟨_, rfl, by simp [ho], rfl⟩
    case raises => exact .inr (.inl ⟨rfl, ho, by rw [hw]; rfl⟩)
    case ctr => exact fun _ => .inl (by rw [hw]; rfl)
    all_goals (dsimp only [State.s2vIdle, State.macIdle]; rw [hw])
    all_goals first | rfl | exact fun _ _ => rfl | exact fun _ => rfl

/-- The AD list's error is ALIGN or ADDR (R351). -/
theorem readAds_error {s : State} {desc : Word} {e : Err} (h : s.readAds desc = .error e) : isCheck e = true := by
  unfold State.readAds at h
  dsimp only at h
  split at h
  · cases h; rfl
  · split at h
    · cases h; rfl
    · split at h
      · cases h; rfl
      · split at h
        · exact absurd h (by simp)
        · cases h; rfl

theorem planFacts_sivseal (desc src len dst : Word) (s : State) :
    PlanFacts (.sivseal desc src len dst) s (planSivseal desc src len dst s) := by
  refine .gated ?_
  split
  · exact .check (readAds_error ‹_›)
  · refine .ite rfl fun _ => .ite rfl fun h => .ite rfl fun _ => .ite rfl fun _ => ?_
    exact jobFacts_seal rfl (by simp [destination]) (by simpa [legal] using h) rfl rfl (afterFacts_id _ _)

theorem planFacts_sivopen (desc src len dst : Word) (s : State) :
    PlanFacts (.sivopen desc src len dst) s (planSivopen desc src len dst s) := by
  refine .gated ?_
  split
  · exact .check (readAds_error ‹_›)
  · refine .ite rfl fun _ => .ite rfl fun h => .ite rfl fun _ => .ite rfl fun _ => .ite rfl fun hs => ?_
    exact jobFacts_open rfl (by simpa using hs) (by simp [destination]) (by simpa [legal] using h) rfl rfl
      (afterFacts_id _ _)

theorem planFacts_aeadseal (desc nonce nlen src len dst : Word) (s : State) :
    PlanFacts (.aeadseal desc nonce nlen src len dst) s (planAeadseal desc nonce nlen src len dst s) := by
  refine .gated ?_
  split
  · exact .check (readAds_error ‹_›)
  · refine .ite rfl fun _ => .ite rfl fun _ => .ite rfl fun h => .ite rfl fun _ => .ite rfl fun _ => ?_
    exact jobFacts_seal rfl (by simp [destination]) (by simpa [legal] using h) rfl rfl (afterFacts_id _ _)

theorem planFacts_aeadopen (desc nonce nlen src len dst : Word) (s : State) :
    PlanFacts (.aeadopen desc nonce nlen src len dst) s (planAeadopen desc nonce nlen src len dst s) := by
  refine .gated ?_
  split
  · exact .check (readAds_error ‹_›)
  · refine .ite rfl fun _ => .ite rfl fun _ => .ite rfl fun h => .ite rfl fun _ => .ite rfl fun _ =>
      .ite rfl fun hs => ?_
    exact jobFacts_open rfl (by simpa using hs) (by simp [destination]) (by simpa [legal] using h) rfl rfl
      (afterFacts_id _ _)

theorem ready_active {s : State} {dir : Dir} (h : ¬(!s.streamReady dir) = true) : s.stream.state = .active := by
  unfold State.streamReady at h
  simp only [Bool.not_eq_true, Bool.not_eq_false', Bool.and_eq_true, beq_iff_eq] at h
  exact h.1

theorem planFacts_stseal (chunk : Chunk) (ad adlen src len dst : Word) (s : State) :
    PlanFacts (.stseal chunk ad adlen src len dst) s (planStseal chunk ad adlen src len dst s) := by
  refine .gated (.ite rfl fun _ => .ite rfl fun _ => .ite rfl fun h => .ite rfl fun _ => .ite rfl fun hr => ?_)
  split
  · exact .inr ⟨rfl, rfl, ready_active hr, rfl, rfl⟩
  · rename_i hx
    exact jobFacts_seal rfl (by simp [destination]) (by simpa [legal] using h) rfl rfl
      (afterFacts_nextChunk rfl (ready_active hr) (Bool.eq_false_iff.2 hx))

theorem planFacts_stopen (chunk : Chunk) (ad adlen src len dst : Word) (s : State) :
    PlanFacts (.stopen chunk ad adlen src len dst) s (planStopen chunk ad adlen src len dst s) := by
  refine .gated (.ite rfl fun _ => .ite rfl fun _ => .ite rfl fun h => .ite rfl fun _ => .ite rfl fun hr => ?_)
  split
  · exact .inr ⟨rfl, rfl, ready_active hr, rfl, rfl⟩
  · rename_i hx
    refine .ite rfl fun hs => ?_
    exact jobFacts_open rfl (by simpa using hs) (by simp [destination]) (by simpa [legal] using h) rfl rfl
      (afterFacts_nextChunk rfl (ready_active hr) (Bool.eq_false_iff.2 hx))

/-- The plan of every command. -/
theorem planFacts (i : Instr) (s : State) : PlanFacts i s (planOf i s) := by
  cases i
  case endc => exact planFacts_endc s
  case nop => exact planFacts_nop s
  case bclr rd => exact planFacts_bclr rd s
  case bmov rd rs => exact planFacts_bmov rd rs s
  case bxor rd rs => exact planFacts_bxor rd rs s
  case bdbl rd rs => exact planFacts_bdbl rd rs s
  case bld rd addr => exact planFacts_bld rd addr s
  case bst rs addr => exact planFacts_bst rs addr s
  case kimport mode addr len => exact planFacts_kimport mode addr len s
  case kclear => exact planFacts_kclear s
  case mreset => exact planFacts_mreset s
  case mupdate addr len => exact planFacts_mupdate addr len s
  case mfinish rd => exact planFacts_mfinish rd s
  case s2vinit => exact planFacts_s2vinit s
  case s2vad addr len => exact planFacts_s2vad addr len s
  case s2vfin rd addr len => exact planFacts_s2vfin rd addr len s
  case ivq rd rs => exact planFacts_ivq rd rs s
  case ctrx rs src len dst => exact planFacts_ctrx rs src len dst s
  case sivseal desc src len dst => exact planFacts_sivseal desc src len dst s
  case sivopen desc src len dst => exact planFacts_sivopen desc src len dst s
  case aeadseal desc nonce nlen src len dst => exact planFacts_aeadseal desc nonce nlen src len dst s
  case aeadopen desc nonce nlen src len dst => exact planFacts_aeadopen desc nonce nlen src len dst s
  case stinit dir start => exact planFacts_stinit dir start s
  case stseal chunk ad adlen src len dst => exact planFacts_stseal chunk ad adlen src len dst s
  case stopen chunk ad adlen src len dst => exact planFacts_stopen chunk ad adlen src len dst s

/-! ### What carrying out any command can do -/

/-- What a command that answers a next state did: it failed at a check, finished its job, met a provider failure, or
waits for an answer. -/
theorem exec_cases {i : Instr} {s t : State} (h : exec i s = .next t) :
    (∃ e u, StopFacts i s e u ∧ planOf i s = .stop e u ∧ t = u.trap e) ∨
    (∃ j, JobFacts i s j ∧ planOf i s = .go j ∧ t = j.finish (Instr.moves i)) ∨
    (∃ j k, JobFacts i s j ∧ planOf i s = .go j ∧ k < j.reqs ∧ t = j.fail k) ∨
    (t = { s with reqOut := true }) := by
  rw [exec_eq_runPlan] at h
  have hp := planFacts i s
  rcases runPlan_cases h with ⟨e, u, h1, h2⟩ | ⟨j, h1, h2, h3⟩ | ⟨j, k, h1, h2, h3⟩ | ⟨j, h1, h2, h3⟩
  · rw [h1] at hp; exact .inl ⟨e, u, hp, h1, h2⟩
  · rw [h1] at hp; exact .inr (.inl ⟨j, hp, h1, h3⟩)
  · rw [h1] at hp
    have := State.verdictFrom_spec j.base 0 j.reqs
    unfold State.verdict at h2
    rw [h2] at this
    exact .inr (.inr (.inl ⟨j, k, hp, h1, by omega, h3⟩))
  · exact .inr (.inr (.inr h3))

/-- An interrupted job, field by field (R464, R59). -/
theorem interrupted_eq (j : Job) : j.interrupted =
    { j.base with
      br := (match j.reg with | none => j.base.br | some r => j.base.br.set r (Config.lostBlock j.base.draws 5)),
      acc := if j.zeroed then Acc.cleared else lostAcc j.base.draws,
      s2v := if j.zeroed then { lostS2v j.base.draws with d := 0#128 } else lostS2v j.base.draws,
      mem := j.interrupted.mem } := by
  unfold Job.interrupted
  rw [writeSome_eq]
  cases j.reg <;> rfl

/-- A failed job, field by field (R464). -/
theorem fail_eq (j : Job) (k : Nat) : j.fail k =
    { j.interrupted with
      corrupt := true, draws := j.base.draws + 1, answers := j.base.answers.drop (k + 1),
      reqs := j.base.reqs + (k + 1), reqOut := false, errcode := Err.providerFault.code, errpc := j.base.cpc,
      err := true, busy := false } := by
  unfold Job.fail
  rw [interrupted_eq]
  simp [State.corrupted, State.spend, State.trap]

/-- A job finished without error, field by field. -/
theorem finish_eq_none {j : Job} {n} (h : j.raises = none) : j.finish n = { j.final with answers := j.final.answers.drop j.reqs, reqs := j.final.reqs + j.reqs, reqOut := j.final.reqOut && j.reqs == 0, cpc := j.final.cpc + BitVec.ofNat 32 n } := by
  simp [Job.finish, h, State.spend, State.advance]

/-- A job finished with an error, field by field. -/
theorem finish_eq_some {j : Job} {n e} (h : j.raises = some e) : j.finish n = { j.final with answers := j.final.answers.drop j.reqs, reqs := j.final.reqs + j.reqs, reqOut := j.final.reqOut && j.reqs == 0, errcode := e.code, errpc := j.final.cpc, err := true, busy := false } := by
  simp [Job.finish, h, State.spend, State.trap]


/-! The base of a job differs from the state in what KIMPORT clears only. -/

theorem base_br {i s j} (h : JobFacts i s j) : j.base.br = s.br := by
  rw [h.base]; split <;> rfl
theorem base_mem {i s j} (h : JobFacts i s j) : j.base.mem = s.mem := by
  rw [h.base]; split <;> rfl
theorem base_epoch {i s j} (h : JobFacts i s j) : j.base.epoch = s.epoch := by
  rw [h.base]; split <;> rfl
theorem base_cpc {i s j} (h : JobFacts i s j) : j.base.cpc = s.cpc := by
  rw [h.base]; split <;> rfl
theorem base_draws {i s j} (h : JobFacts i s j) : j.base.draws = s.draws := by
  rw [h.base]; split <;> rfl
theorem base_cptr {i s j} (h : JobFacts i s j) : j.base.cptr = s.cptr := by
  rw [h.base]; split <;> rfl
theorem base_irqen {i s j} (h : JobFacts i s j) : j.base.irqen = s.irqen := by
  rw [h.base]; split <;> rfl
theorem base_done {i s j} (h : JobFacts i s j) : j.base.done = s.done := by
  rw [h.base]; split <;> rfl

/-! ### What an interruption writes to MEM, and where a run is met -/

/-- An interrupted command changes no byte outside its destination. -/
theorem interrupted_outside {i s j} (h : JobFacts i s j) {a : Nat} (ha : outside i a) :
    j.interrupted.byteAt a = s.byteAt a := by
  have hb : a < j.dst ∨ j.dst + j.bytes.length ≤ a := by rw [h.dst, h.len]; exact ha
  unfold Job.interrupted
  rw [State.byteAt_writeSome_outside _ _ _ _ _ _ hb]
  exact State.byteAt_congr (by simp [base_mem h]) (by simp [base_epoch h]) a

/-- Each byte that an interrupted command may write is unchanged or has its value in the command's string. -/
theorem interrupted_inside {i s j} (h : JobFacts i s j) {k : Nat} (hk : k < j.bytes.length) :
    j.interrupted.byteAt (j.dst + k) = s.byteAt (j.dst + k) ∨ j.interrupted.byteAt (j.dst + k) = j.bytes[k] := by
  unfold Job.interrupted
  rcases State.byteAt_writeSome_inside j.base.draws 0 ((j.base.loseEngines j.base.draws j.zeroed).loseReg
    j.base.draws j.reg) j.dst k j.bytes h.legal hk with h1 | h1
  · refine .inl (h1.trans ?_)
    exact State.byteAt_congr (by simp [base_mem h]) (by simp [base_epoch h]) _
  · exact .inr h1

/-- A run is met at the boundary before the command at CPC, or with the job of that command interrupted (R187, R502). -/
theorem metInRun_cases (s : State) :
    s.metInRun = s.atBoundary ∨
    ∃ i j, s.fetch = .ok i ∧ planOf i s = .go j ∧ JobFacts i s j ∧ s.metInRun = j.interrupted := by
  unfold State.metInRun
  split
  · split
    · rename_i i hi
      have hp := planFacts i s
      cases h : planOf i s with
      | stop e u => exact .inl rfl
      | go j => rw [h] at hp; exact .inr ⟨i, j, hi, h, hp, rfl⟩
    · exact .inl rfl
  · exact .inl rfl

/-! ### What a command stores -/

/-- Two states with the same MEM, registers, keys and stream, in which a command stores the same. -/
structure SameData (s t : State) : Prop where
  mem : t.mem = s.mem
  epoch : t.epoch = s.epoch
  br : t.br = s.br
  keys : t.keys = s.keys
  stream : t.stream = s.stream

theorem SameData.readBytes {s t : State} (h : SameData s t) (a n : Nat) : t.readBytes a n = s.readBytes a n :=
  State.readBytes_congr fun _ _ => State.byteAt_congr h.mem h.epoch _

theorem SameData.word {s t : State} (h : SameData s t) (a : Nat) : t.word a = s.word a := by
  simp only [State.word, State.byteAt_congr h.mem h.epoch]

theorem SameData.descPairs {s t : State} (h : SameData s t) (a n : Nat) : t.descPairs a n = s.descPairs a n := by
  induction n generalizing a with
  | zero => rfl
  | succ n ih => simp only [State.descPairs, h.word, ih]

theorem SameData.readAds {s t : State} (h : SameData s t) (desc : Word) : t.readAds desc = s.readAds desc := by
  simp only [State.readAds, h.word, h.descPairs, h.readBytes]

/-- A gated plan that is a job is that job. -/
theorem of_gated {s : State} {p : Plan} {j : Job} (h : gated s p = .go j) : p = .go j := by
  unfold gated at h
  split at h
  · cases h
  · exact h

/-- A check before a plan that is a job has passed. -/
theorem of_check {b : Prop} [Decidable b] {s : State} {e : Err} {p : Plan} {j : Job}
    (h : (if b then .stop e s else p) = .go j) : p = .go j := by
  split at h
  · cases h
  · exact h

theorem bytes_bst {rs : BReg} {addr : Word} {s : State} {j : Job} (h : planBst rs addr s = .go j) :
    j.bytes = blockBytes (s.getBr rs) := by cases of_check (of_gated h); rfl

theorem bytes_ctrx {rs : BReg} {src len dst : Word} {s : State} {j : Job} (h : planCtrx rs src len dst s = .go j) :
    j.bytes = ctr (Config.bc s.keys.ckey) (s.getBr rs) (s.operand src len) := by
  cases of_check (of_check (of_check (of_gated h))); rfl

theorem bytes_sivseal {desc src len dst : Word} {s : State} {j : Job} (h : planSivseal desc src len dst s = .go j) :
    ∃ ads, s.readAds desc = .ok ads ∧ j.bytes = sivSeal Config.bc s.keys ads (s.operand src len) := by
  have h := of_gated h
  split at h
  · cases h
  · rename_i ads hr
    cases of_check (of_check (of_check (of_check h)))
    exact ⟨ads, hr, rfl⟩

theorem bytes_aeadseal {desc nonce nlen src len dst : Word} {s : State} {j : Job}
    (h : planAeadseal desc nonce nlen src len dst s = .go j) :
    ∃ ads, s.readAds desc = .ok ads ∧
      j.bytes = sivSeal Config.bc s.keys (ads ++ [s.operand nonce nlen]) (s.operand src len) := by
  have h := of_gated h
  split at h
  · cases h
  · rename_i ads hr
    cases of_check (of_check (of_check (of_check (of_check h))))
    exact ⟨ads, hr, rfl⟩

theorem bytes_stseal {chunk : Chunk} {ad adlen src len dst : Word} {s : State} {j : Job}
    (h : planStseal chunk ad adlen src len dst s = .go j) :
    j.bytes = sivSeal Config.bc s.keys (s.chunkAds chunk ad adlen) (s.operand src len) := by
  cases of_check (of_check (of_check (of_check (of_check (of_check (of_gated h)))))); rfl

/-- The string a command stores is a function of MEM, the registers, the keys and the stream. -/
theorem SameData.bytes {i : Instr} {s t : State} (h : SameData s t) {j k : Job} (hj : planOf i s = .go j)
    (hk : planOf i t = .go k) : k.bytes = j.bytes := by
  have hf := planFacts i s
  have hg := planFacts i t
  rw [hj] at hf
  rw [hk] at hg
  have hl : j.bytes.length = (destination i).2 := hf.len
  have hm : k.bytes.length = (destination i).2 := hg.len
  have ho : opensMessage i = true → k.bytes = j.bytes := fun ho =>
    (List.eq_replicate_of_mem (hg.zeros ho)).trans
      ((congrArg (List.replicate · 0#8) (hm.trans hl.symm)).trans (List.eq_replicate_of_mem (hf.zeros ho)).symm)
  cases i
  case sivopen => exact ho rfl
  case aeadopen => exact ho rfl
  case stopen => exact ho rfl
  case bst rs addr => rw [bytes_bst hj, bytes_bst hk, State.getBr, State.getBr, h.br]
  case ctrx rs src len dst =>
    rw [bytes_ctrx hj, bytes_ctrx hk, State.getBr, State.getBr, h.br, h.keys, State.operand, State.operand, h.readBytes]
  case sivseal desc src len dst =>
    obtain ⟨x, hx, hb⟩ := bytes_sivseal hj
    obtain ⟨y, hy, hc⟩ := bytes_sivseal hk
    rw [h.readAds, hx] at hy
    cases hy
    rw [hb, hc, h.keys, State.operand, State.operand, h.readBytes]
  case aeadseal desc nonce nlen src len dst =>
    obtain ⟨x, hx, hb⟩ := bytes_aeadseal hj
    obtain ⟨y, hy, hc⟩ := bytes_aeadseal hk
    rw [h.readAds, hx] at hy
    cases hy
    rw [hb, hc, h.keys]
    simp only [State.operand, h.readBytes]
  case stseal chunk ad adlen src len dst =>
    rw [bytes_stseal hj, bytes_stseal hk, h.keys]
    simp only [State.chunkAds, State.operand, h.readBytes, h.stream]
  all_goals exact (List.eq_nil_of_length_eq_zero hm).trans (List.eq_nil_of_length_eq_zero hl).symm

/-- A command that completed and opens no message left its string at its destination. -/
theorem completed_inside {i : Instr} {s t : State} {j : Job} (hp : planOf i s = .go j) (ho : opensMessage i = false)
    (h : exec i s = .next t) (he : t.err = s.err) (hc : t.cpc ≠ s.cpc) {k : Nat} (hk : k < j.bytes.length) :
    t.byteAt (j.dst + k) = j.bytes[k] := by
  rcases exec_cases h with ⟨e, u, hs, _, rfl⟩ | ⟨j', hj, hp', rfl⟩ | ⟨j', m, hj, _, _, rfl⟩ | rfl
  · refine absurd ?_ hc
    rcases hs with ⟨rfl, _⟩ | ⟨rfl, _⟩ <;> rfl
  · rw [hp] at hp'
    cases hp'
    cases hr : j.raises with
    | some e => exact absurd (by rw [finish_eq_some hr]; exact hj.cpc) hc
    | none =>
      obtain ⟨v, hl, hv, hm⟩ := hj.written
      obtain rfl := hv ho
      rw [← State.byteAt_writeBytes_inside s j.dst k j.bytes hj.legal hk]
      exact State.byteAt_congr (by rw [finish_eq_none hr]; exact hm)
        (by rw [finish_eq_none hr, writeBytes_eq]; exact hj.epoch) _
  · exact absurd (by rw [fail_eq]; exact (congrArg State.cpc (interrupted_eq j')).trans (base_cpc hj)) hc
  · exact absurd rfl hc

end Sys2Proof.Machine
end

