-- ==== Sys2Proof/Laws/PerInstr.lean ====
section
/-!
SUPPORT. Per-command lemmas about commands as syntax.  Family `Shape`: the bytes of a command are as many as its opcode
alone fixes (30_encoding.md R140, R152), and its header is well formed (R144).
-/

namespace Sys2Proof.Laws.Shape

/-- The length and the header of an encoded command. -/
def Statement (i : Instr) : Prop := (encode i).length = i.op.bytes ∧ Header.wellFormed i.header = true

/-- An encoded command has as many bytes as its words say. -/
theorem encode_length (i : Instr) : (encode i).length = i.op.bytes := by cases i <;> rfl

theorem endc : Statement .endc := by
  refine ⟨encode_length _, ?_⟩
  show Header.wellFormed (headerWord 0x01#8 0#4 0#4 0#8) = true
  rfl

theorem nop : Statement .nop := by
  refine ⟨encode_length _, ?_⟩
  show Header.wellFormed (headerWord 0x02#8 0#4 0#4 0#8) = true
  rfl

theorem bclr (rd : BReg) : Statement (.bclr rd) := by
  refine ⟨encode_length _, ?_⟩
  show Header.wellFormed (headerWord 0x10#8 rd.field 0#4 0#8) = true
  cases rd <;> rfl

theorem bmov (rd rs : BReg) : Statement (.bmov rd rs) := by
  refine ⟨encode_length _, ?_⟩
  show Header.wellFormed (headerWord 0x11#8 rd.field rs.field 0#8) = true
  cases rd <;> cases rs <;> rfl

theorem bxor (rd rs : BReg) : Statement (.bxor rd rs) := by
  refine ⟨encode_length _, ?_⟩
  show Header.wellFormed (headerWord 0x12#8 rd.field rs.field 0#8) = true
  cases rd <;> cases rs <;> rfl

theorem bdbl (rd rs : BReg) : Statement (.bdbl rd rs) := by
  refine ⟨encode_length _, ?_⟩
  show Header.wellFormed (headerWord 0x13#8 rd.field rs.field 0#8) = true
  cases rd <;> cases rs <;> rfl

theorem bld (rd : BReg) (addr : Word) : Statement (.bld rd addr) := by
  refine ⟨encode_length _, ?_⟩
  show Header.wellFormed (headerWord 0x14#8 rd.field 0#4 0#8) = true
  cases rd <;> rfl

theorem bst (rs : BReg) (addr : Word) : Statement (.bst rs addr) := by
  refine ⟨encode_length _, ?_⟩
  show Header.wellFormed (headerWord 0x15#8 0#4 rs.field 0#8) = true
  cases rs <;> rfl

theorem kimport (mode : KeyMode) (addr len : Word) : Statement (.kimport mode addr len) := by
  refine ⟨encode_length _, ?_⟩
  show Header.wellFormed (headerWord 0x20#8 0#4 0#4 (0#6 ++ mode.bits)) = true
  cases mode <;> rfl

theorem kclear : Statement .kclear := by
  refine ⟨encode_length _, ?_⟩
  show Header.wellFormed (headerWord 0x21#8 0#4 0#4 0#8) = true
  rfl

theorem mreset : Statement .mreset := by
  refine ⟨encode_length _, ?_⟩
  show Header.wellFormed (headerWord 0x30#8 0#4 0#4 0#8) = true
  rfl

theorem mupdate (addr len : Word) : Statement (.mupdate addr len) := by
  refine ⟨encode_length _, ?_⟩
  show Header.wellFormed (headerWord 0x31#8 0#4 0#4 0#8) = true
  rfl

theorem mfinish (rd : BReg) : Statement (.mfinish rd) := by
  refine ⟨encode_length _, ?_⟩
  show Header.wellFormed (headerWord 0x32#8 rd.field 0#4 0#8) = true
  cases rd <;> rfl

theorem s2vinit : Statement .s2vinit := by
  refine ⟨encode_length _, ?_⟩
  show Header.wellFormed (headerWord 0x40#8 0#4 0#4 0#8) = true
  rfl

theorem s2vad (addr len : Word) : Statement (.s2vad addr len) := by
  refine ⟨encode_length _, ?_⟩
  show Header.wellFormed (headerWord 0x41#8 0#4 0#4 0#8) = true
  rfl

theorem s2vfin (rd : BReg) (addr len : Word) : Statement (.s2vfin rd addr len) := by
  refine ⟨encode_length _, ?_⟩
  show Header.wellFormed (headerWord 0x42#8 rd.field 0#4 0#8) = true
  cases rd <;> rfl

theorem ivq (rd rs : BReg) : Statement (.ivq rd rs) := by
  refine ⟨encode_length _, ?_⟩
  show Header.wellFormed (headerWord 0x43#8 rd.field rs.field 0#8) = true
  cases rd <;> cases rs <;> rfl

theorem ctrx (rs : BReg) (src len dst : Word) : Statement (.ctrx rs src len dst) := by
  refine ⟨encode_length _, ?_⟩
  show Header.wellFormed (headerWord 0x44#8 0#4 rs.field 0#8) = true
  cases rs <;> rfl

theorem sivseal (desc src len dst : Word) : Statement (.sivseal desc src len dst) := by
  refine ⟨encode_length _, ?_⟩
  show Header.wellFormed (headerWord 0x45#8 0#4 0#4 0#8) = true
  rfl

theorem sivopen (desc src len dst : Word) : Statement (.sivopen desc src len dst) := by
  refine ⟨encode_length _, ?_⟩
  show Header.wellFormed (headerWord 0x46#8 0#4 0#4 0#8) = true
  rfl

theorem aeadseal (desc nonce nlen src len dst : Word) : Statement (.aeadseal desc nonce nlen src len dst) := by
  refine ⟨encode_length _, ?_⟩
  show Header.wellFormed (headerWord 0x50#8 0#4 0#4 0#8) = true
  rfl

theorem aeadopen (desc nonce nlen src len dst : Word) : Statement (.aeadopen desc nonce nlen src len dst) := by
  refine ⟨encode_length _, ?_⟩
  show Header.wellFormed (headerWord 0x51#8 0#4 0#4 0#8) = true
  rfl

theorem stinit (dir : Dir) (start : Word) : Statement (.stinit dir start) := by
  refine ⟨encode_length _, ?_⟩
  show Header.wellFormed (headerWord 0x60#8 0#4 0#4 (0#7 ++ dir.bits)) = true
  cases dir <;> rfl

theorem stseal (chunk : Chunk) (ad adlen src len dst : Word) : Statement (.stseal chunk ad adlen src len dst) := by
  refine ⟨encode_length _, ?_⟩
  show Header.wellFormed (headerWord 0x61#8 0#4 0#4 (0#7 ++ chunk.bits)) = true
  cases chunk <;> rfl

theorem stopen (chunk : Chunk) (ad adlen src len dst : Word) : Statement (.stopen chunk ad adlen src len dst) := by
  refine ⟨encode_length _, ?_⟩
  show Header.wellFormed (headerWord 0x62#8 0#4 0#4 (0#7 ++ chunk.bits)) = true
  cases chunk <;> rfl

end Sys2Proof.Laws.Shape
end

