-- ==== Sys2Proof/Tests/Aes.lean ====
section
/-!
SUPPORT. AES (FIPS 197) as a block cipher for the tests: the spec's vectors are stated with AES as BC (00_scope.md R10,
93_implementation_defined.md G13).  The model itself never names it.
-/

namespace Sys2Proof.Tests

open Sys2Proof.Machine

/-- The S-box, byte `i` at bits `8i+7..8i`. -/
def aesTable : Nat :=
  0x16bb54b00f2d99416842e6bf0d89a18cdf2855cee9871e9b948ed9691198f8e19e1dc186b95735610ef6034866b53e708a8bbd4b1f74dde8c6b4a61c2e2578ba08ae7a65eaf4566ca94ed58d6d37c8e779e4959162acd3c25c2406490a3a32e0db0b5ede14b8ee4688902a22dc4f816073195d643d7ea7c41744975fec130ccdd2f3ff1021dab6bcf5389d928f40a351a89f3c507f02f94585334d43fbaaefd0cf584c4a39becb6a5bb1fc20ed00d153842fe329b3d63b52a05a6e1b1a2c830975b227ebe28012079a059618c323c7041531d871f1e5a534ccf73f362693fdb7c072a49cafa2d4adf04759fa7dc982ca76abd7fe2b670130c56f6bf27b777c63

/-- SubBytes on one byte. -/
def aesSub (b : Nat) : Nat := (aesTable >>> (8 * b)) % 256

/-- Multiplication by x in GF(2^8). -/
def aesTime (b : Nat) : Nat := ((2 * b) % 256) ^^^ (if b < 128 then 0 else 0x1b)

/-- MixColumns on one column. -/
def aesMix (a b c d : Nat) : List Nat :=
  let t := a ^^^ b ^^^ c ^^^ d
  [a ^^^ t ^^^ aesTime (a ^^^ b), b ^^^ t ^^^ aesTime (b ^^^ c), c ^^^ t ^^^ aesTime (c ^^^ d),
    d ^^^ t ^^^ aesTime (d ^^^ a)]

/-- SubBytes and ShiftRows. -/
def aesShift (x : List Nat) : List Nat :=
  [0, 5, 10, 15, 4, 9, 14, 3, 8, 13, 2, 7, 12, 1, 6, 11].map fun i => aesSub (x.getD i 0)

/-- MixColumns on the whole state. -/
def aesMixAll : List Nat → List Nat
  | a :: b :: c :: d :: rest => aesMix a b c d ++ aesMixAll rest
  | _ => []

/-- AddRoundKey. -/
def aesAdd (x k : List Nat) : List Nat := List.zipWith (fun a b => a ^^^ b) x k

/-- The word four bytes long that starts the `i`-th key-schedule step, from the last word of the schedule. -/
def aesCore (nk i rcon : Nat) (w : List Nat) : List Nat :=
  if i % nk = 0 then
    match w with
    | [a, b, c, d] => [aesSub b ^^^ rcon, aesSub c, aesSub d, aesSub a]
    | _ => []
  else if 6 < nk ∧ i % nk = 4 then w.map aesSub
  else w

/-- The key schedule, newest word first, for `fuel` more words. -/
def aesExpand (nk : Nat) : Nat → Nat → Nat → List (List Nat) → List (List Nat)
  | 0, _, _, ws => ws
  | fuel + 1, i, rcon, ws =>
    let t := aesCore nk i rcon (ws.headD [])
    let w := aesAdd (ws.getD (nk - 1) []) t
    aesExpand nk fuel (i + 1) (if i % nk = 0 then aesTime rcon else rcon) (w :: ws)

/-- Groups of four bytes. -/
def aesWords : List Nat → List (List Nat)
  | a :: b :: c :: d :: rest => [a, b, c, d] :: aesWords rest
  | _ => []

/-- The rounds: the round keys are the schedule's words, four at a time. -/
def aesRounds : Nat → List (List Nat) → List Nat → List Nat
  | 0, _, x => x
  | 1, ws, x => aesAdd (aesShift x) (ws.take 4).flatten
  | n + 1, ws, x => aesRounds n (ws.drop 4) (aesAdd (aesMixAll (aesShift x)) (ws.take 4).flatten)

/-- AES-128, AES-192 or AES-256 by the length of the key. -/
def aes (key : Bytes) (x : Block) : Block :=
  let kb := key.map BitVec.toNat
  let nk := kb.length / 4
  let rounds := nk + 6
  let ws := (aesExpand nk (4 * (rounds + 1) - nk) nk 1 (aesWords kb).reverse).reverse
  let st := (blockBytes x).map BitVec.toNat
  blockOf ((aesRounds rounds (ws.drop 4) (aesAdd st (ws.take 4).flatten)).map (BitVec.ofNat 8))

end Sys2Proof.Tests
end

