-- ==== Sys2Proof/Tests/Slice0.lean ====
section
/-!
SUPPORT. Tests of the model against words, vectors and examples printed in the spec (95_test_vectors.md and the rules
named at each test): header checks, decoding, assembly, one step on small states, and the engines with AES as BC.
-/

namespace Sys2Proof.Tests

set_option Elab.async false

open Sys2Proof.Machine

/-! ### Helpers -/

/-- A byte string of `n` bytes as one number, byte 0 most significant. -/
def hexBytes (n w : Nat) : Bytes := (List.range n).map fun i => BitVec.ofNat 8 (w >>> (8 * (n - 1 - i)))

/-- The decoder on words, each stored big-endian. -/
def decodeWords (ws : List Word) : Except DecodeError (Instr × List Byte) := decode (ws.flatMap wordBytes)

/-- A MEM that holds a byte string at an address and nothing else. -/
def memOf (a : Nat) (bs : Bytes) : Memory := (List.range bs.length).zipWith (fun i b => (a + i, b)) bs

/-- `n` zero bytes of MEM from an address on. -/
def zerosFrom : Nat → Nat → Memory
  | _, 0 => []
  | a, n + 1 => (a, 0#8) :: zerosFrom (a + 1) n

/-- A MEM with a descriptor list of `n < 256` empty AD strings at address 0 (R117). -/
def adMem (n : Nat) : Memory := [(0, 0#8), (1, 0#8), (2, 0#8), (3, BitVec.ofNat 8 n)] ++ zerosFrom 4 (8 * n)

/-- The next state of an outcome. -/
def nextOf (o : Host.Outcome State Fault Refusal) : Option State :=
  match o with
  | .next t => some t
  | .fault _ => none
  | .refused _ => none

theorem exists_next {o : Host.Outcome State Fault Refusal} (h : (nextOf o).isSome = true) : ∃ t, o = .next t := by
  cases o with
  | next t => exact ⟨t, rfl⟩
  | fault r => cases r
  | refused r => cases h

/-- The error code, the recorded address and the run flags after a step. -/
def record (o : Host.Outcome State Fault Refusal) : Option (Byte × Word × Bool × Bool × Bool) :=
  (nextOf o).map fun t => (t.errcode, t.errpc, t.busy, t.done, t.err)

/-! ### Well-formedness (R144; 95_test_vectors.md 3.1, R479) -/

theorem test_opcode_check :
    [0x00000000#32, 0x03000000#32, 0x16000000#32, 0x47000000#32, 0xFF000000#32].map
      (fun h => (Header.opcodeAssigned h, Header.wellFormed h)) = List.replicate 5 (false, false) := by decide

theorem test_z_check :
    [0x01000001#32, 0x61000101#32].map (fun h => (Header.zZero h, Header.wellFormed h)) =
      List.replicate 2 (false, false) := by decide

theorem test_unused_field_check :
    (Header.unusedZero .d 0x10010000#32, Header.wellFormed 0x10010000#32) = (false, false) ∧
    (Header.unusedZero .s 0x44100000#32, Header.wellFormed 0x44100000#32) = (false, false) := by decide

theorem test_register_check :
    (Header.regsInRange .d 0x10400000#32, Header.wellFormed 0x10400000#32) = (false, false) ∧
    (Header.regsInRange .ds 0x13500000#32, Header.wellFormed 0x13500000#32) = (false, false) ∧
    (Header.regsInRange .s 0x15040000#32, Header.wellFormed 0x15040000#32) = (false, false) := by decide

theorem test_flag_check :
    (Header.flagsInRange .m 0x20000400#32, Header.wellFormed 0x20000400#32) = (false, false) ∧
    (Header.flagsInRange .n 0x45000100#32, Header.wellFormed 0x45000100#32) = (false, false) ∧
    (Header.flagsInRange .f 0x60000200#32, Header.wellFormed 0x60000200#32) = (false, false) := by decide

theorem test_ill_formed_headers_do_not_decode :
    [0x13500000#32, 0x10010000#32, 0x20000400#32, 0x44100000#32, 0x45000100#32, 0x60000200#32, 0x61000101#32,
      0x00000000#32, 0x03000000#32, 0xFF000000#32, 0x01000001#32, 0x10400000#32].map decodeHeader =
      List.replicate 12 none := by decide

theorem test_well_formed_headers :
    [0x13100000#32, 0x12220000#32, 0x43330000#32, 0x32300000#32, 0x20000300#32, 0x44010000#32, 0x60000100#32].map
      Header.wellFormed = List.replicate 7 true := by decide

/-! ### Decoding: each command from its word as its rule's example writes it -/

theorem test_decode_sequencer :
    decodeWords [0x01000000#32] = .ok (.endc, []) ∧ decodeWords [0x02000000#32] = .ok (.nop, []) := by decide

theorem test_decode_block_unit :
    decodeWords [0x10200000#32] = .ok (.bclr .b2, []) ∧
    decodeWords [0x11300000#32] = .ok (.bmov .b3 .b0, []) ∧
    decodeWords [0x12010000#32] = .ok (.bxor .b0 .b1, []) ∧
    decodeWords [0x13100000#32] = .ok (.bdbl .b1 .b0, []) ∧
    decodeWords [0x14000000#32, 0x00000100#32] = .ok (.bld .b0 0x100#32, []) ∧
    decodeWords [0x15010000#32, 0x00000200#32] = .ok (.bst .b1 0x200#32, []) := by decide

theorem test_decode_key_mac :
    decodeWords [0x20000000#32, 0x00000200#32, 0x00000010#32] = .ok (.kimport .cmac 0x200#32 16#32, []) ∧
    decodeWords [0x20000100#32, 0x00000200#32, 0x00000010#32] = .ok (.kimport .pmac 0x200#32 16#32, []) ∧
    decodeWords [0x20000200#32, 0x00000200#32, 0x00000020#32] = .ok (.kimport .siv 0x200#32 32#32, []) ∧
    decodeWords [0x20000300#32, 0x00000200#32, 0x00000020#32] = .ok (.kimport .pmacsiv 0x200#32 32#32, []) ∧
    decodeWords [0x21000000#32] = .ok (.kclear, []) ∧
    decodeWords [0x30000000#32] = .ok (.mreset, []) ∧
    decodeWords [0x31000000#32, 0x00000300#32, 0x00000028#32] = .ok (.mupdate 0x300#32 40#32, []) ∧
    decodeWords [0x32200000#32] = .ok (.mfinish .b2, []) := by decide

theorem test_decode_s2v_siv :
    decodeWords [0x40000000#32] = .ok (.s2vinit, []) ∧
    decodeWords [0x41000000#32, 0x00000240#32, 0x00000018#32] = .ok (.s2vad 0x240#32 24#32, []) ∧
    decodeWords [0x42000000#32, 0x00000260#32, 0x0000000e#32] = .ok (.s2vfin .b0 0x260#32 14#32, []) ∧
    decodeWords [0x43100000#32] = .ok (.ivq .b1 .b0, []) ∧
    decodeWords [0x44010000#32, 0x00000260#32, 0x0000000e#32, 0x00000400#32] =
      .ok (.ctrx .b1 0x260#32 14#32 0x400#32, []) ∧
    decodeWords [0x45000000#32, 0x00000280#32, 0x00000260#32, 0x0000000e#32, 0x00000400#32] =
      .ok (.sivseal 0x280#32 0x260#32 14#32 0x400#32, []) ∧
    decodeWords [0x46000000#32, 0x00000280#32, 0x00000400#32, 0x0000001e#32, 0x00000440#32] =
      .ok (.sivopen 0x280#32 0x400#32 30#32 0x440#32, []) := by decide

theorem test_decode_aead :
    decodeWords [0x50000000#32, 0x000002c0#32, 0x00000280#32, 0x00000010#32, 0x00000290#32, 0x0000002f#32,
      0x00000400#32] = .ok (.aeadseal 0x2c0#32 0x280#32 16#32 0x290#32 47#32 0x400#32, []) ∧
    decodeWords [0x51000000#32, 0x000002c0#32, 0x00000280#32, 0x00000010#32, 0x00000400#32, 0x0000003f#32,
      0x00000440#32] = .ok (.aeadopen 0x2c0#32 0x280#32 16#32 0x400#32 63#32 0x440#32, []) := by decide

theorem test_decode_stream :
    decodeWords [0x60000000#32, 0x00000380#32] = .ok (.stinit .enc 0x380#32, []) ∧
    decodeWords [0x60000100#32, 0x00000380#32] = .ok (.stinit .dec 0x380#32, []) ∧
    decodeWords [0x61000100#32, 0#32, 0#32, 0x00000300#32, 0x00000003#32, 0x00000400#32] =
      .ok (.stseal .last 0#32 0#32 0x300#32 3#32 0x400#32, []) ∧
    decodeWords [0x62000000#32, 0x00000500#32, 0x00000001#32, 0x00000410#32, 0x00000016#32, 0x00000600#32] =
      .ok (.stopen .more 0x500#32 1#32 0x410#32 22#32 0x600#32, []) := by decide

/-- A word's most significant byte is at the lowest address (R103); a short command is refused by name. -/
theorem test_decode_bytes :
    decode [0x14#8, 0x20#8, 0#8, 0#8, 0x12#8, 0x34#8, 0x56#8, 0x78#8, 0xAA#8] =
      .ok (.bld .b2 0x12345678#32, [0xAA#8]) ∧
    decode [0x14#8, 0x20#8, 0#8] = .error .noHeader ∧
    decode [0x14#8, 0x20#8, 0#8, 0#8, 0#8, 0#8, 0#8] = .error .noOperands ∧
    decode [0#8, 0#8, 0#8, 0#8] = .error .illegal := by decide

/-- R154's examples and program L3.1's first lines; R155's expansions; `.desc` of program L3.3. -/
theorem test_assembler :
    encode (.bdbl .b1 .b0) = [0x13#8, 0x10#8, 0#8, 0#8] ∧
    (Instr.kimport .siv 0x200#32 32#32).words = [0x20000200#32, 0x00000200#32, 0x00000020#32] ∧
    (Instr.stseal .last 0#32 0#32 0x300#32 5#32 0x400#32).words =
      [0x61000100#32, 0#32, 0#32, 0x300#32, 5#32, 0x400#32] ∧
    (AsmLine.pseudo .halt).emit = [1#8, 0#8, 0#8, 0#8] ∧
    (Pseudo.mac .b2 0x300#32 40#32).expand = [.mreset, .mupdate 0x300#32 40#32, .mfinish .b2] ∧
    (Pseudo.s2v1 .b0 0x260#32 14#32).expand = [.s2vinit, .s2vfin .b0 0x260#32 14#32] ∧
    (AsmLine.desc [(0x240#32, 24#32)]).emit = [0#8, 0#8, 0#8, 1#8, 0#8, 0#8, 2#8, 0x40#8, 0#8, 0#8, 0#8, 0x18#8] ∧
    (assemble 0 [.cmd (.bld .b0 0x100#32), .cmd (.bdbl .b1 .b0), .org 0x40, .cmd .endc]).map Prod.fst =
      [0, 8, 12, 0x40] := by decide

/-! ### The opcode table's rows -/

/-- The rows of spec/opcode_table.json, by their "match" words, in the table's order. -/
def tableRows : List Nat :=
  [0x01000000, 0x02000000, 0x10000000, 0x11000000, 0x12000000, 0x13000000, 0x14000000, 0x15000000, 0x20000000] ++
  [0x21000000, 0x30000000, 0x31000000, 0x32000000, 0x40000000, 0x41000000, 0x42000000, 0x43000000, 0x44000000] ++
  [0x45000000, 0x46000000, 0x50000000, 0x51000000, 0x60000000, 0x61000000, 0x62000000]

theorem test_table_rows_decode :
    (tableRows.map (decodeTableWord 32)).map (Option.map Instr.op) = Op.all.map some := by decide +kernel

theorem test_table_rows_step :
    tableRows.all (fun w => (nextOf (step (State.reset.withFetchWord 32 w))).isSome) = true := by decide +kernel

/-! ### Reset (R57, R500) -/

theorem test_reset_memory_wf : Memory.wf State.reset.mem = true := by decide

theorem test_reset_is_idle : step State.reset = .next State.reset := rfl

theorem test_reset_registers :
    [0x00, 0x04, 0x08, 0x0C, 0x10, 0x14, 0x18, 0x1C, 0x20].map (State.mmioRead 0 State.reset 4) =
      [0x4D534331#32, 0#32, 0#32, 0#32, 0#32, 0#32, 0#32, 0#32, 0#32] := by decide

/-! ### One step on small states -/

/-- The RFC 4493 L in BR0 and its double in BR1 (program L3.1). -/
def blocks : State :=
  { State.reset with br := ⟨0x7df76b0c1ab899b33e42f047b91b546f#128, 0xff00ff00ff00ff00ff00ff00ff00ff00#128, 0#128,
      0x80000000000000000000000000000000#128⟩ }

/-- A core with keys of one byte in a MAC mode. -/
def keyed (m : MacMode) : State :=
  { State.reset with keys := { Keys.cleared with mkey := [1#8], ckey := [2#8], macmode := m } }

/-- NOP; END at 0x40 ends with CPC = 0x44 and DONE = 1 (R184). -/
theorem test_nop_end :
    let s := { State.reset with busy := true, cpc := 0x40#32, mem := memOf 0x40 [2#8, 0#8, 0#8, 0#8, 1#8, 0#8, 0#8, 0#8] }
    ((nextOf (step s)).map fun t => (t.cpc, t.busy)) = some (0x44#32, true) ∧
    ((nextOf (step s)).bind fun t => record (step t)) = some (0#8, 0#32, false, true, false) := by decide +kernel

/-- R205's example; the other registers stay. -/
theorem test_bclr :
    ((nextOf (exec (.bclr .b0) blocks)).map fun t => t.br) =
      some ⟨0#128, 0xff00ff00ff00ff00ff00ff00ff00ff00#128, 0#128, 0x80000000000000000000000000000000#128⟩ := by decide

/-- R206's example: the source stays. -/
theorem test_bmov :
    ((nextOf (exec (.bmov .b3 .b0) blocks)).map fun t => (t.br.br0, t.br.br3)) =
      some (0x7df76b0c1ab899b33e42f047b91b546f#128, 0x7df76b0c1ab899b33e42f047b91b546f#128) := by decide

/-- R207's example, and the same register twice. -/
theorem test_bxor :
    let s := { State.reset with br := ⟨0x0f0f0f0f0f0f0f0f0f0f0f0f0f0f0f0f#128, 0xff00ff00ff00ff00ff00ff00ff00ff00#128, 0#128, 0#128⟩ }
    ((nextOf (exec (.bxor .b0 .b1) s)).map fun t => t.br.br0) = some 0xf00ff00ff00ff00ff00ff00ff00ff00f#128 ∧
    ((nextOf (exec (.bxor .b1 .b1) s)).map fun t => t.br.br1) = some 0#128 := by decide

/-- R208's examples: L to K1, and 80 00..00 to 00..00 87. -/
theorem test_bdbl :
    ((nextOf (exec (.bdbl .b1 .b0) blocks)).map fun t => t.br.br1) = some 0xfbeed618357133667c85e08f7236a8de#128 ∧
    ((nextOf (exec (.bdbl .b3 .b3) blocks)).map fun t => t.br.br3) = some 0x87#128 := by decide

/-- The rows of R211. -/
theorem test_dbl_halve_vectors :
    [0#128, 0x80000000000000000000000000000000#128, 0xffffffffffffffffffffffffffffffff#128, 1#128,
      0x0123456789abcdeffedcba9876543210#128, 0x7df76b0c1ab899b33e42f047b91b546f#128].map
      (fun b => (dbl b, dbl (dbl b), halve b)) =
    [(0#128, 0#128, 0#128),
      (0x87#128, 0x10e#128, 0x40000000000000000000000000000000#128),
      (0xffffffffffffffffffffffffffffff79#128, 0xfffffffffffffffffffffffffffffe75#128,
        0xffffffffffffffffffffffffffffffbc#128),
      (2#128, 4#128, 0x80000000000000000000000000000043#128),
      (0x02468acf13579bdffdb97530eca86420#128, 0x048d159e26af37bffb72ea61d950c840#128,
        0x0091a2b3c4d5e6f7ff6e5d4c3b2a1908#128),
      (0xfbeed618357133667c85e08f7236a8de#128, 0xf7ddac306ae266ccf90bc11ee46d513b#128,
        0xbefbb5860d5c4cd99f217823dc8daa74#128)] := by decide +kernel

/-- BLD takes byte 0 from the lowest address; at P_MEM_SIZE - 15 it raises ADDR (R209, R479). -/
theorem test_bld :
    let s := { State.reset with mem := memOf 0x100 (hexBytes 16 0x000102030405060708090a0b0c0d0e0f) }
    ((nextOf (exec (.bld .b0 0x100#32) s)).map fun t => (t.br.br0, t.cpc)) =
      some (0x000102030405060708090a0b0c0d0e0f#128, 8#32) ∧
    record (exec (.bld .b0 65521#32) s) = some (0x03#8, 0#32, false, false, true) := by decide +kernel

/-- BST puts byte 0 at the lowest address; at P_MEM_SIZE - 15 it writes nothing (R210). -/
theorem test_bst :
    ((nextOf (exec (.bst .b0 65520#32) blocks)).map fun t => (t.byteAt 65520, t.byteAt 65535, t.mem.length)) =
      some (0x7d#8, 0x6f#8, 16) ∧
    ((nextOf (exec (.bst .b0 65521#32) blocks)).map fun t => (t.mem, t.errcode)) = some ([], 0x03#8) := by
  decide +kernel

/-- No provider accepts length 0: INVALID_KEY, and an old key is gone (R308, R479); a range outside MEM keeps it. -/
theorem test_kimport_refused :
    ((nextOf (exec (.kimport .cmac 0#32 0#32) (keyed .cmac))).map fun t => (t.errcode, t.keys.macmode, t.keys.mkey)) =
      some (0x10#8, .none, []) ∧
    ((nextOf (exec (.kimport .siv 65536#32 32#32) (keyed .cmac))).map fun t =>
      (t.errcode, t.keys.macmode, t.keys.mkey)) = some (0x03#8, .cmac, [1#8]) := by decide +kernel

/-- An odd SIV key is refused whatever the provider accepts (R308, R479). -/
theorem test_kimport_odd :
    ((nextOf (exec (.kimport .siv 0#32 33#32) (keyed .pmac))).map fun t => (t.errcode, t.keys.ckey)) =
      some (0x10#8, []) := by decide +kernel

/-- KCLEAR leaves STATUS bits 8 to 20 all 0 and clears CORRUPT (R303). -/
theorem test_kclear :
    ((nextOf (exec .kclear { keyed .pmac with corrupt := true })).map fun t => t.status 0) = some 0#32 := by decide +kernel

/-- MRESET after KCLEAR raises NO_KEY (R479); with a key it clears the accumulator. -/
theorem test_mreset :
    record (exec .mreset State.reset) = some (0x11#8, 0#32, false, false, true) ∧
    ((nextOf (exec .mreset { keyed .cmac with acc := { Acc.cleared with pos := 5, buf := 7#128, fin := true } })).map
      fun t => (t.acc.pos, t.acc.buf, t.acc.fin)) = some (0, 0#128, false) := by decide +kernel

/-- MUPDATE with FIN = 1 raises SEQUENCE (R479); under 17 bytes it makes no request (R234). -/
theorem test_mupdate :
    record (exec (.mupdate 0#32 1#32) { keyed .cmac with acc := { Acc.cleared with fin := true } }) =
      some (0x12#8, 0#32, false, false, true) ∧
    ((nextOf (exec (.mupdate 0x300#32 2#32) { keyed .cmac with mem := memOf 0x300 [0xAB#8, 0xCD#8] })).map
      fun t => (t.acc.buf, t.acc.pos, t.reqs)) = some (0xABCD0000000000000000000000000000#128, 2, 0) := by
  decide +kernel

/-- The PMAC limit of 2^31 - 1 blocks (R270). -/
theorem test_pmac_limit :
    let s := { keyed .pmac with acc := { Acc.cleared with pcnt := 0x7FFFFFFF, pos := 16 } }
    record (exec (.mupdate 0#32 1#32) s) = some (0x13#8, 0#32, false, false, true) ∧
    record (exec (.mupdate 0#32 0#32) s) = some (0#8, 0#32, false, false, false) := by decide +kernel

/-- A second MFINISH returns the cached digest (R237); a failed Enc request is a PROVIDER_FAULT with CORRUPT (R479). -/
theorem test_mfinish :
    ((nextOf (exec (.mfinish .b1) { keyed .cmac with acc := { Acc.cleared with fin := true, dig := 9#128 } })).map
      fun t => (t.br.br1, t.reqs)) = some (9#128, 0) ∧
    ((nextOf (exec (.mfinish .b0) { keyed .cmac with answers := [.fail] })).map fun t => (t.errcode, t.corrupt)) =
      some (0x40#8, true) := by decide +kernel

/-- While CORRUPT = 1 S2VINIT raises CORRUPT_STATE (R479). -/
theorem test_s2vinit_corrupt :
    record (exec .s2vinit { keyed .cmac with corrupt := true }) = some (0x42#8, 0#32, false, false, true) := by
  decide +kernel

/-- S2VAD with S2VACT = 0 raises SEQUENCE (R479); at NAD = 126 it raises AD_LIMIT (R345). -/
theorem test_s2vad :
    record (exec (.s2vad 0#32 0#32) (keyed .cmac)) = some (0x12#8, 0#32, false, false, true) ∧
    record (exec (.s2vad 0#32 0#32) { keyed .cmac with s2v := ⟨true, 0#128, 126⟩ }) =
      some (0x14#8, 0#32, false, false, true) := by decide +kernel

/-- S2VFIN needs an S2V in progress (R346). -/
theorem test_s2vfin :
    record (exec (.s2vfin .b0 0#32 0#32) (keyed .pmac)) = some (0x12#8, 0#32, false, false, true) := by decide +kernel

/-- R349's example with all ones. -/
theorem test_ivq :
    let s := { State.reset with br := ⟨0xffffffffffffffffffffffffffffffff#128, 0#128, 0#128, 0#128⟩ }
    ((nextOf (exec (.ivq .b1 .b0) s)).map fun t => t.br.br1) = some 0xffffffffffffffff7fffffff7fffffff#128 := by decide

/-- The rows of 95_test_vectors.md 3.5. -/
theorem test_ivq_vectors :
    [0xffffffffffffffff8000000080000000#128, 0#128, 0x85632d07c6e8f37f950acd320a2ecc93#128].map ivq =
      [0xffffffffffffffff0000000000000000#128, 0#128, 0x85632d07c6e8f37f150acd320a2ecc93#128] := by decide

/-- CTRX of no bytes writes nothing and makes no request, but checks NO_KEY (R350). -/
theorem test_ctrx_empty :
    ((nextOf (exec (.ctrx .b0 0#32 0#32 65536#32) (keyed .cmac))).map fun t => (t.mem, t.reqs, t.cpc)) =
      some ([], 0, 16#32) ∧
    record (exec (.ctrx .b0 0#32 0#32 65536#32) State.reset) = some (0x11#8, 0#32, false, false, true) := by
  decide +kernel

/-- SIVSEAL 0x102 raises ALIGN; no CTR key raises NO_KEY (R479). -/
theorem test_sivseal_errors :
    record (exec (.sivseal 0x102#32 0#32 0#32 0#32) (keyed .cmac)) = some (0x04#8, 0#32, false, false, true) ∧
    record (exec (.sivseal 0#32 0#32 0#32 0#32)
      { keyed .cmac with mem := adMem 0, keys := { Keys.cleared with mkey := [1#8], macmode := .cmac } }) =
      some (0x11#8, 0#32, false, false, true) := by decide +kernel

/-- A sealed input of 15 bytes raises INTEGRITY and writes nothing (R479). -/
theorem test_sivopen_short :
    ((nextOf (exec (.sivopen 0#32 0#32 15#32 0#32) { keyed .cmac with mem := adMem 0 })).map
      fun t => (t.errcode, t.mem)) = some (0x20#8, adMem 0) := by decide +kernel

/-- AEADOPEN checks the nonce's range before the key (R402). -/
theorem test_aeadopen_addr :
    record (exec (.aeadopen 0#32 65536#32 1#32 0#32 16#32 0#32)
      { State.reset with mem := adMem 0 }) = some (0x03#8, 0#32, false, false, true) := by
  decide +kernel

/-- STINIT dec sets up a DEC stream at counter 0 (R422). -/
theorem test_stinit :
    ((nextOf (exec (.stinit .dec 0x380#32)
      { keyed .cmac with mem := memOf 0x380 (hexBytes 8 0x0001020304050607), stream := ⟨.terminated, .enc, [], 5#32⟩ })).map
      fun t => t.stream) = some ⟨.active, .dec, [0#8, 1#8, 2#8, 3#8, 4#8, 5#8, 6#8, 7#8], 0#32⟩ := by decide +kernel

/-- STSEAL more at the last counter value raises COUNTER_OVERFLOW and terminates the stream; in a TERMINATED stream it
raises CHUNK_SEQUENCE (R479). -/
theorem test_stseal_errors :
    ((nextOf (exec (.stseal .more 0#32 0#32 0#32 0#32 0#32)
      { keyed .cmac with stream := ⟨.active, .enc, List.replicate 8 0#8, 0xFFFFFFFF#32⟩ })).map
      fun t => (t.errcode, t.stream.state)) = some (0x31#8, .terminated) ∧
    record (exec (.stseal .more 0#32 0#32 0#32 0#32 0#32)
      { keyed .cmac with stream := ⟨.terminated, .enc, List.replicate 8 0#8, 2#32⟩ }) =
      some (0x30#8, 0#32, false, false, true) := by decide +kernel

/-- STOPEN on an ENC stream raises CHUNK_SEQUENCE (R479). -/
theorem test_stopen_direction :
    record (exec (.stopen .last 0#32 0#32 0#32 16#32 0#32)
      { keyed .cmac with stream := ⟨.active, .enc, List.replicate 8 0#8, 0#32⟩ }) =
      some (0x30#8, 0#32, false, false, true) := by decide +kernel

/-! ### Fetch and the host -/

/-- A header at P_MEM_SIZE and KIMPORT's operands past the end of MEM raise FETCH (R479). -/
theorem test_fetch_errors :
    record (step { State.reset with busy := true, cpc := 65536#32 }) = some (0x02#8, 65536#32, false, false, true) ∧
    record (step { State.reset with busy := true, cpc := 65528#32, mem := memOf 65528 [0x20#8, 0#8, 0#8, 0#8] }) =
      some (0x02#8, 65528#32, false, false, true) := by decide +kernel

/-- CPTR drops bits 1:0, GO starts a run there, and a width of 2 is ignored (R48, R180, R55). -/
theorem test_host_starts_run :
    let s := { State.reset with host := [.mmioWrite 2 0x10 8#32, .mmioWrite 4 0x10 0x43#32, .mmioWrite 4 0x04 1#32] }
    ((nextOf (step s)).map fun t => t.cptr) = some 0#32 ∧
    (((nextOf (step s)).bind fun t => nextOf (step t)).map fun t => t.cptr) = some 0x40#32 ∧
    ((((nextOf (step s)).bind fun t => nextOf (step t)).bind fun t => nextOf (step t)).map fun t => (t.busy, t.cpc)) =
      some (true, 0x40#32) := by decide +kernel

/-- ABORT while MFINISH b0 waits for the provider (R187, R464, R479): the key and the other registers stay. -/
theorem test_abort :
    let s := { keyed .cmac with busy := true, reqOut := true, cpc := 0x40#32, host := [.mmioWrite 4 0x04 4#32],
                                mem := memOf 0x40 [0x32#8, 0#8, 0#8, 0#8], br := ⟨1#128, 2#128, 3#128, 4#128⟩ }
    record (step s) = some (0x41#8, 0x40#32, false, false, true) ∧
    ((nextOf (step s)).map fun t => (t.corrupt, t.keys.mkey, t.br.br1)) = some (true, [1#8], 2#128) := by
  decide +kernel

/-- ABORT beside GO during a run aborts it, and GO is ignored (R45, R507). -/
theorem test_abort_beside_go :
    record (step { keyed .cmac with
      busy := true, reqOut := true, cpc := 0x40#32, host := [.mmioWrite 4 0x04 5#32],
      mem := memOf 0x40 [0x32#8, 0#8, 0#8, 0#8] }) = some (0x41#8, 0x40#32, false, false, true) := by decide +kernel

/-- After the first NOP of NOP, NOP, END the commands of the run are those at 0, 4 and 8 (R49). -/
theorem test_cpc_during_run :
    let s := { State.reset with busy := true, mem := memOf 0 [2#8, 0#8, 0#8, 0#8, 2#8, 0#8, 0#8, 0#8, 1#8, 0#8, 0#8, 0#8] }
    (nextOf (step s)).map (fun t => [0, 1, 2, 3].map t.runCommand) = some [0#32, 4#32, 8#32, 8#32] := by decide +kernel

/-- The MEM writes before each GO (R113). -/
theorem test_mem_before_go :
    memBeforeGo 0 [.memWrite 0 1#8, .mmioWrite 4 0x04 1#32, .memWrite 1 2#8, .hardReset, .mmioWrite 4 0x04 1#32] =
      [1, 2] := by decide

/-- STATUS as program L3.4's first run leaves it: 0x00080504. -/
theorem test_status :
    ({ keyed .cmac with err := true, stream := ⟨.terminated, .enc, List.replicate 8 0#8, 2#32⟩ } : State).status 0 =
      0x00080504#32 := by decide

/-- MEM reads as zeros to the host during a run, and drops its writes (R107). -/
theorem test_host_memory_blocked :
    let s := { State.reset with busy := true, mem := memOf 0 [9#8] }
    s.hostByte 0 = 0#8 ∧ (s.hostAct (.memWrite 0 5#8)).byteAt 0 = 9#8 := by decide

/-! ### The engines with AES as BC (95_test_vectors.md) -/

/-- The RFC 4493 key's keys: K1 and K2 as R241 prints them. -/
def cmacKeys : Keys :=
  { Keys.cleared with
    mkey := hexBytes 16 0x2b7e151628aed2a6abf7158809cf4f3c, macmode := .cmac,
    k1 := 0xfbeed618357133667c85e08f7236a8de#128, k2 := 0xf7ddac306ae266ccf90bc11ee46d513b#128 }

/-- The keys of the PMAC-AES-128 vectors, derived from the L that R272 prints. -/
def pmacKeys : Keys :=
  { Keys.cleared with
    mkey := hexBytes 16 0x000102030405060708090a0b0c0d0e0f, macmode := .pmac,
    lt := Vector.ofFn fun i => dblTimes i.val 0xc6a13b37878f5b826f4f8162a1c8d879#128,
    linv := 0xe3509d9bc3c7adc137a7c0b150e46c7f#128 }

/-- AES under a key list. -/
def aesOf (k : Keys) : Block → Block := aes k.mkey

/-- R231 on the RFC 4493 key (R241). -/
theorem test_cmac_subkeys : cmacSubkeys (aesOf cmacKeys) = (cmacKeys.k1, cmacKeys.k2) := by decide +kernel

/-- The empty message and 40 bytes of M, the second in two updates (R241, program L3.2). -/
theorem test_cmac_empty : mac1 (aesOf cmacKeys) cmacKeys [] = 0xbb1d6929e95937287fa37d129b756746#128 := by
  decide +kernel

theorem test_cmac_split :
    let m := hexBytes 40 0x6bc1bee22e409f96e93d7e117393172aae2d8a571e03ac9c9eb76fac45af8e5130c81c46a35ce411
    let a := cmacUpdate (aesOf cmacKeys) (cmacUpdate (aesOf cmacKeys) Acc.cleared (m.take 16)) (m.drop 16)
    (a.buf, a.pos, (macFinish (aesOf cmacKeys) cmacKeys a).dig) =
      (0x8180dd3993c20283287ae57cf12add49#128, 8, 0xdfa66747de9ae63030ca32611497c827#128) := by decide +kernel

/-- LT and LINV as R272 prints them. -/
theorem test_pmac_table :
    ((pmacTable (aesOf pmacKeys)).1[2], (pmacTable (aesOf pmacKeys)).1[30], (pmacTable (aesOf pmacKeys)).2) =
      (0x1a84ecde1e3d6e09bd3e058a8723606d#128, 0xe1e3d6e09bd3e058a8723606007e8ee3#128,
        0xe3509d9bc3c7adc137a7c0b150e46c7f#128) := by decide +kernel

/-- R272's trace of the 34-byte message. -/
theorem test_pmac_34 :
    let a := pmacUpdate (aesOf pmacKeys) pmacKeys Acc.cleared ((List.range 34).map (BitVec.ofNat 8))
    (a.pcnt, a.pos, a.off, a.sum, (macFinish (aesOf pmacKeys) pmacKeys a).dig) =
      (2, 2, 0x4be34d588891ec86b1d083a7e259680c#128, 0xaef2f58c861a0e91d37c57b386ccd977#128,
        0x5cba7d5eb24f7c86ccc54604e53d5512#128) := by decide +kernel

/-- A message that ends on a block boundary takes LINV (R272). -/
theorem test_pmac_16 :
    mac1 (aesOf pmacKeys) pmacKeys ((List.range 16).map (BitVec.ofNat 8)) =
      0xebbd822fa458daf6dfdad7c27da76338#128 := by decide +kernel

/-- The keys that KIMPORT siv derives from the RFC 5297 A.1 key, with AES. -/
def sivKeys : Keys :=
  let mk := hexBytes 16 0xfffefdfcfbfaf9f8f7f6f5f4f3f2f1f0
  { Keys.cleared with
    mkey := mk, ckey := hexBytes 16 0xf0f1f2f3f4f5f6f7f8f9fafbfcfdfeff, macmode := .cmac,
    k1 := (cmacSubkeys (aes mk)).1, k2 := (cmacSubkeys (aes mk)).2 }

/-- The AD of A.1. -/
def adA1 : Bytes := hexBytes 24 0x101112131415161718191a1b1c1d1e1f2021222324252627

/-- The plaintext of A.1. -/
def ptA1 : Bytes := hexBytes 14 0x112233445566778899aabbccddee

/-- S2V of A.1, step by step (R358). -/
theorem test_s2v_a1 :
    s2vStart (aesOf sivKeys) sivKeys = 0x0e04dfafc1efbf040140582859bf073a#128 ∧
    s2vAbsorb (aesOf sivKeys) sivKeys 0x0e04dfafc1efbf040140582859bf073a#128 adA1 =
      0xedf09de876c642ee4d78bce4ceedfc4f#128 ∧
    mac1 (aesOf sivKeys) sivKeys (s2vLast 0xedf09de876c642ee4d78bce4ceedfc4f#128 ptA1) =
      0x85632d07c6e8f37f950acd320a2ecc93#128 := by decide +kernel

/-- The sealed string of A.1 (R358). -/
theorem test_seal_a1 :
    sivSeal aes sivKeys [adA1] ptA1 = hexBytes 30 0x85632d07c6e8f37f950acd320a2ecc9340c02b9690c4dc04daef7f6afe5c := by
  decide +kernel

/-- Opening it gives the plaintext; with bit 0 of byte 16 flipped it gives nothing (program L3.3). -/
theorem test_open_a1 :
    sivOpen aes sivKeys [adA1] (hexBytes 30 0x85632d07c6e8f37f950acd320a2ecc9340c02b9690c4dc04daef7f6afe5c) =
      some ptA1 ∧
    sivOpen aes sivKeys [adA1] (hexBytes 30 0x85632d07c6e8f37f950acd320a2ecc9341c02b9690c4dc04daef7f6afe5c) =
      none := by decide +kernel

/-- The `xorend` boundary of A.2: T of 47 bytes (R358). -/
theorem test_xorend_a2 :
    s2vLast 0x16592c17729a5a725567636168b48376#128
      (hexBytes 47 0x7468697320697320736f6d6520706c61696e7465787420746f20656e6372797074207573696e67205349562d414553) =
      hexBytes 47 0x7468697320697320736f6d6520706c61696e7465787420746f20656e637279662d0c6201f3341575342a3745f5c625 := by
  decide +kernel

/-- CTR wraps from ff..ff to 00..00 (R350's second example). -/
theorem test_ctr_wraps :
    ctr (aes sivKeys.ckey) 0xffffffffffffffffffffffffffffffff#128 (List.replicate 32 0#8) =
      hexBytes 32 0x7dd62736fb7430c916553da2d9e4daa6fdf188a74835a83d8829a62973bbdd03 := by decide +kernel

/-- STREAM's chunk 2, the last, with its nonce (R427). -/
theorem test_stream_last_chunk :
    let pfx := hexBytes 8 0x0001020304050607
    streamNonce pfx 2#32 .last = hexBytes 13 0x00010203040506070000000201 ∧
    aeadSeal aes sivKeys [[]] (streamNonce pfx 2#32 .last) (hexBytes 3 0x656e64) =
      hexBytes 19 0x80a7c00fac5d15646eb4d10e9a6dc8906bb7a8 := by decide +kernel

end Sys2Proof.Tests
end

