-- ==== Sys2Proof/Tests/Witness.lean ====
section
/-!
SUPPORT. For every obligation with hypotheses, concrete states and operands that meet all of them together, one witness
for each of its clauses, at the boundary values of its ranges.
-/

namespace Sys2Proof.Tests

set_option Elab.async false

open Sys2Proof.Machine Sys2Proof.Spec

/-! ### States and small facts -/

/-- A core with both keys, a MEM and two hundred answers granted. -/
def ready (m : MacMode) (mem : Memory) : State := { keyed m with mem := mem, answers := List.replicate 200 .ok }

/-- A list of granted answers grants as many requests. -/
theorem grants_of_replicate {s : State} {m n : Nat} (h : s.answers = List.replicate m .ok) (hn : n ≤ m) :
    s.Grants n := by
  intro k hk
  have : k < m := by omega
  simp [State.answer, h, this]

theorem grants_of_answers {s : State} (h : s.answers = List.replicate 200 .ok) {n : Nat} (hn : n ≤ 200) :
    s.Grants n := grants_of_replicate h hn

theorem ready_grants (m : MacMode) (mem : Memory) {n : Nat} (hn : n ≤ 200) : (ready m mem).Grants n :=
  grants_of_answers rfl hn

theorem bothKeys_of {s : State} {m : MacMode} (hm : m ≠ .none) (h1 : s.keys.macmode = m) (h2 : s.keys.ckey = [2#8]) :
    BothKeys s := ⟨by rw [h1]; exact hm, by rw [h2]; decide⟩

theorem ready_bothKeys (mem : Memory) : BothKeys (ready .cmac mem) ∧ BothKeys (ready .pmac mem) :=
  ⟨bothKeys_of (m := .cmac) (by decide) rfl rfl, bothKeys_of (m := .pmac) (by decide) rfl rfl⟩

/-- The one key length that every P_BC_KEYLEN has. -/
def someKeyLen : Nat := Config.keyLenOne.val + 1

theorem someKeyLen_ok : Config.acceptsKeyLen someKeyLen = true := by simp [Config.acceptsKeyLen, someKeyLen]

theorem someKeyLen_le : someKeyLen ≤ 32 := by unfold someKeyLen; omega

/-- MEM at the addresses from 16 on holds a block; a list of no AD strings stands at 0. -/
def memWithBlock (v : Block) : Memory := adMem 0 ++ memOf 16 (blockBytes v)

theorem readBytes_memWithBlock (s : State) (v : Block) (h : s.mem = memWithBlock v) :
    s.readBytes 16 16 = blockBytes v := by
  have hb : ∀ i, i < 16 → s.byteAt (16 + i) = blockByte v i := by
    intro i hi
    unfold State.byteAt
    rw [h]
    interval_cases i <;> rfl
  apply List.ext_getElem (by simp)
  intro i h1 _
  rw [State.readBytes_getElem, blockBytes_getElem]
  exact hb i (by simpa using h1)

/-! ### Encoding, reset and the step -/

theorem wit_EncodeInvertsDecode :
    (∃ bs i rest, decode bs = .ok (i, rest)) ∧
    decode (encode (.aeadseal 1#32 2#32 3#32 4#32 5#32 0xFFFFFFFF#32) ++ [7#8]) =
      .ok (.aeadseal 1#32 2#32 3#32 4#32 5#32 0xFFFFFFFF#32, [7#8]) :=
  ⟨⟨[1#8, 0#8, 0#8, 0#8], .endc, [], by decide⟩, by decide⟩

theorem wit_IllFormedHeaderIsIllegal :
    let s : State := { State.reset with busy := true, mem := memOf 0 [0#8, 0#8, 0#8, 0#8] }
    let t : State := { State.reset with busy := true, cpc := 65532#32, mem := memOf 65532 [1#8, 0#8, 0#8, 1#8] }
    (s.host = [] ∧ s.busy = true ∧ s.cpc.toNat + 4 ≤ Config.memSize ∧ Header.wellFormed (s.word s.cpc.toNat) = false) ∧
    (t.host = [] ∧ t.busy = true ∧ t.cpc.toNat + 4 ≤ Config.memSize ∧
      Header.wellFormed (t.word t.cpc.toNat) = false) := by decide +kernel

/-- A command whose outcome is a next state with these values of ERR and CPC. -/
theorem completes {o : Host.Outcome State Fault Refusal} {s : State} {c : Word} (he : s.err = false) (hc : s.cpc = 0#32)
    (h : ((nextOf o).map fun t => (t.err, t.cpc)) = some (false, c) ∧ c ≠ 0#32) :
    ∃ u, o = .next u ∧ u.err = s.err ∧ u.cpc ≠ s.cpc := by
  cases o with
  | next u =>
    have h1 : u.err = false ∧ u.cpc = c := by simpa [nextOf] using h.1
    exact ⟨u, rfl, h1.1.trans he.symm, by rw [h1.2, hc]; exact h.2⟩
  | fault r => cases r
  | refused r => exact absurd h.1 (by simp [nextOf])

/-- An idle core; a run with BST at CPC, which completes, with SIVOPEN there, and with no command there; both ways in which
the host resets. -/
theorem wit_ResetsLeaveSpecValues :
    (∃ s t : State, t = s.softReset ∧ s.busy = false) ∧ (∃ s t : State, t = s.hardReset) ∧
    (let s := { ready .cmac (memOf 0 [0x15#8, 0#8, 0#8, 0#8, 0#8, 0#8, 0xFF#8, 0xF0#8]) with busy := true }
     s.busy = true ∧ s.fetch = .ok (.bst .b0 0xFFF0#32) ∧ opensMessage (.bst .b0 0xFFF0#32) = false ∧
      outside (.bst .b0 0xFFF0#32) 0xFFEF ∧
      ∃ u, exec (.bst .b0 0xFFF0#32) { s with answers := [] } = .next u ∧ u.err = s.err ∧ u.cpc ≠ s.cpc) ∧
    (let s := { ready .cmac (memOf 0 ([0x46#8] ++ List.replicate 19 0#8)) with busy := true }
     s.busy = true ∧ s.fetch = .ok (.sivopen 0#32 0#32 0#32 0#32) ∧
      opensMessage (.sivopen 0#32 0#32 0#32 0#32) = true) ∧
    (let s := { State.reset with busy := true, cpc := 65536#32 }
     s.busy = true ∧ s.fetch = .error .fetch) ∧
    ({ State.reset with host := [.hardReset] } : State).host = .hardReset :: [] ∧
    ({ State.reset with host := [.mmioWrite 4 0x04 7#32] } : State).host = .mmioWrite 4 0x04 7#32 :: [] ∧
    (7#32).getLsbD 1 = true := by
  refine ⟨⟨State.reset, _, rfl, rfl⟩, ⟨State.reset, _, rfl⟩,
    ⟨rfl, by decide +kernel, rfl, .inl (by decide), completes (c := 8#32) rfl rfl (by decide +kernel)⟩,
    ⟨rfl, by decide +kernel, rfl⟩,
    ⟨rfl, by decide +kernel⟩, rfl, rfl, by decide⟩

theorem wit_reset_inv : State.reset.Inv := by
  constructor <;> decide

theorem wit_StepKeepsInv : ∃ s t : State, s.Inv ∧ step s = .next t := ⟨State.reset, _, wit_reset_inv, rfl⟩

/-- NOP at the last word of MEM, and with the host quiet once. -/
theorem wit_StepRunsDecodedCommand :
    let s : State := { State.reset with busy := true, cpc := 65532#32, mem := memOf 65532 [2#8, 0#8, 0#8, 0#8] }
    (s.busy = true ∧ decode s.window = .ok (.nop, []) ∧ s.host = []) ∧
    ({ s with host := [.quiet] } : State).host = .quiet :: [] ∧ State.reset.busy = false ∧ State.reset.host = [] :=
  ⟨⟨rfl, by decide +kernel, rfl⟩, rfl, rfl, rfl⟩

/-- CPC at P_MEM_SIZE - 3, and KIMPORT's header at P_MEM_SIZE - 8. -/
theorem wit_FetchOutsideMemTraps :
    let s : State := { State.reset with busy := true, cpc := 65533#32 }
    let t : State := { State.reset with busy := true, cpc := 65528#32, mem := memOf 65528 [0x20#8, 0#8, 0#8, 0#8] }
    (s.host = [] ∧ s.busy = true ∧ Config.memSize < s.cpc.toNat + 4) ∧
    (t.host = [] ∧ t.busy = true ∧ t.cpc.toNat + 4 ≤ Config.memSize ∧
      (decodeHeader (t.word t.cpc.toNat)).map Prod.fst = some .kimport ∧
      Config.memSize < t.cpc.toNat + 4 + 4 * Op.kimport.k) := by decide +kernel

/-! ### The block unit -/

/-- The hypothesis of every statement on a command that CORRUPT gates. -/
theorem wit_not_corrupt : State.reset.corrupt = false ∧ ∀ m mem, (ready m mem).corrupt = false := ⟨rfl, fun _ _ => rfl⟩

/-- BLD and BST at the last legal address and at the next one. -/
theorem wit_BldLoadsBlock_BstStoresBlock :
    State.reset.corrupt = false ∧ (65520#32).toNat + 16 ≤ Config.memSize ∧
    Config.memSize < (65521#32).toNat + 16 := by decide

theorem wit_DoublerIsLinearBijection : ∃ b : Block, b ≠ 0#128 := ⟨1#128, by decide⟩

/-! ### Keys -/

/-- A key of an accepted length at the end of MEM, in every mode. -/
theorem wit_KimportLoadsKey :
    (∃ addr len : Word, addr.toNat + len.toNat ≤ Config.memSize ∧ lengthOk .cmac len.toNat ∧ lengthOk .pmac len.toNat ∧
      (ready .none []).Grants 2) ∧
    ∃ addr len : Word, addr.toNat + len.toNat = Config.memSize ∧ lengthOk .siv len.toNat ∧
      lengthOk .pmacsiv len.toNat ∧ (ready .none []).Grants 3 := by
  have h := someKeyLen_ok
  have hl := someKeyLen_le
  refine ⟨⟨0#32, BitVec.ofNat 32 someKeyLen, ?_, ?_, ?_, ready_grants _ _ (by omega)⟩,
    ⟨BitVec.ofNat 32 (65536 - 2 * someKeyLen), BitVec.ofNat 32 (2 * someKeyLen), ?_, ?_, ?_,
      ready_grants _ _ (by omega)⟩⟩
  all_goals
    have e1 : someKeyLen % 4294967296 = someKeyLen := by omega
    have e2 : (2 * someKeyLen) % 4294967296 = 2 * someKeyLen := by omega
    have e3 : (65536 - 2 * someKeyLen) % 4294967296 = 65536 - 2 * someKeyLen := by omega
    simp [lengthOk, BitVec.toNat_ofNat, e1, e2, e3, Config.memSize, h]
    try omega

theorem wit_KimportRejectsKey :
    Config.memSize < (65536#32).toNat + (1#32).toNat ∧
    ((65536#32).toNat + (0#32).toNat ≤ Config.memSize ∧ ¬lengthOk .cmac (0#32).toNat ∧
      ¬lengthOk .siv (0#32).toNat) ∧
    ((65503#32).toNat + (33#32).toNat ≤ Config.memSize ∧ ¬lengthOk .siv (33#32).toNat ∧
      ¬lengthOk .pmacsiv (33#32).toNat) := by
  refine ⟨by decide, ⟨by decide, ?_, ?_⟩, by decide, ?_, ?_⟩ <;> simp [lengthOk, Config.acceptsKeyLen]

/-! ### MAC commands -/

theorem wit_MresetStartsMessage :
    (ready .cmac []).keys.macmode = .cmac ∧ (ready .pmac []).keys.macmode = .pmac ∧
    State.reset.keys.macmode = .none := by decide

/-- Every case of the last block: POS 0, 15 and 16 in both modes, and a cached digest. -/
theorem wit_MfinishWritesDigest :
    State.reset.keys.macmode = .none ∧
    (let s := { ready .cmac [] with acc := { Acc.cleared with fin := true } }
     s.corrupt = false ∧ s.keys.macmode ≠ .none ∧ s.acc.fin = true) ∧
    ∀ m ∈ [MacMode.cmac, .pmac], ∀ p ∈ [0, 15, 16],
      let s := { ready m [] with acc := { Acc.cleared with pos := p } }
      s.corrupt = false ∧ s.keys.macmode = m ∧ s.keys.macmode ≠ .none ∧ s.acc.fin = false ∧ s.acc.pos = p ∧
        s.Grants 1 := by
  refine ⟨rfl, by decide, ?_⟩
  intro m hm p hp s
  refine ⟨rfl, rfl, ?_, rfl, rfl, grants_of_answers rfl (by omega)⟩
  show m ≠ .none
  intro h
  subst h
  simp at hm

/-- A range one byte past MEM; FIN = 1; the PMAC limit met and passed by one block; a CMAC update of 17 bytes. -/
theorem wit_MupdateAbsorbs :
    Config.memSize < (65536#32).toNat + (1#32).toNat ∧
    ((65535#32).toNat + (1#32).toNat ≤ Config.memSize ∧ State.reset.keys.macmode = .none) ∧
    (let s := { ready .cmac [] with acc := { Acc.cleared with fin := true } }
     s.keys.macmode ≠ .none ∧ s.acc.fin = true) ∧
    (let s := { ready .pmac [] with acc := { Acc.cleared with pos := 16, pcnt := 2147483647 } }
     s.keys.macmode = .pmac ∧ s.acc.fin = false ∧
      2 ^ 31 - 1 < s.acc.pcnt + (if s.acc.pos + (1#32).toNat ≤ 16 then 0 else (s.acc.pos + (1#32).toNat + 15) / 16 - 1)) ∧
    (let s := { ready .pmac [] with acc := { Acc.cleared with pos := 16, pcnt := 2147483646 } }
     s.keys.macmode ≠ .none ∧ s.acc.fin = false ∧
      s.acc.pcnt + (if s.acc.pos + (1#32).toNat ≤ 16 then 0 else (s.acc.pos + (1#32).toNat + 15) / 16 - 1) ≤ 2 ^ 31 - 1 ∧
      s.Grants 1) ∧
    ((ready .cmac []).keys.macmode ≠ .none ∧ (ready .cmac []).acc.fin = false ∧
      (if (ready .cmac []).acc.pos + (17#32).toNat ≤ 16 then 0
        else ((ready .cmac []).acc.pos + (17#32).toNat + 15) / 16 - 1) = 1 ∧ (ready .cmac []).Grants 1) :=
  ⟨by decide, by decide, by decide, by decide, ⟨by decide, by decide, by decide, grants_of_answers rfl (by omega)⟩,
    by decide, by decide, by decide, ready_grants _ _ (by omega)⟩

theorem wit_UpdatesMaySplit : ({ Acc.cleared with pos := 16 } : Acc).pos ≤ 16 := by decide

theorem wit_OneShotMacClosedForms :
    ({ Keys.cleared with macmode := .cmac } : Keys).macmode = .cmac ∧
    ({ Keys.cleared with macmode := .pmac } : Keys).macmode = .pmac := by decide

theorem wit_PmacOffsetsAreGrayCode : 0 < 2 ^ Config.pmacLtab ∧ 2147483647 < 2 ^ Config.pmacLtab := by decide

/-! ### S2V and counter mode -/

theorem wit_S2vinitStarts :
    State.reset.keys.macmode = .none ∧ (ready .cmac []).keys.macmode ≠ .none ∧ (ready .pmac []).keys.macmode ≠ .none ∧
    (ready .cmac []).Grants 1 := ⟨rfl, by decide, by decide, ready_grants _ _ (by omega)⟩

/-- No S2V; NAD at 126, at 125 and at 0; the empty AD string at the end of MEM. -/
theorem wit_S2vadAbsorbs :
    Config.memSize < (65536#32).toNat + (1#32).toNat ∧ (65536#32).toNat + (0#32).toNat ≤ Config.memSize ∧
    State.reset.keys.macmode = .none ∧
    ((ready .cmac []).keys.macmode ≠ .none ∧ (ready .cmac []).s2v.act = false) ∧
    (let s := { ready .cmac [] with s2v := ⟨true, 0#128, 126⟩ }
     s.keys.macmode ≠ .none ∧ s.s2v.act = true ∧ s.s2v.nad = 126) ∧
    ∀ n ∈ [0, 125],
      let s := { ready .pmac [] with s2v := ⟨true, 5#128, n⟩ }
      s.keys.macmode ≠ .none ∧ s.s2v.act = true ∧ s.s2v.nad ≠ 126 ∧ s.Grants (mac1Reqs (0#32).toNat) := by
  refine ⟨by decide, by decide, rfl, by decide, by decide, ?_⟩
  intro n hn s
  refine ⟨(by decide : MacMode.pmac ≠ .none), rfl, ?_, grants_of_answers rfl (by decide)⟩
  show n ≠ 126
  intro h
  subst h
  simp at hn

/-- Final strings of 0, 15 and 16 bytes. -/
theorem wit_S2vfinWritesTag :
    Config.memSize < (65536#32).toNat + (1#32).toNat ∧ State.reset.keys.macmode = .none ∧
    ((ready .cmac []).keys.macmode ≠ .none ∧ (ready .cmac []).s2v.act = false) ∧
    ∀ n ∈ [0#32, 15#32, 16#32],
      let s := { ready .cmac [] with s2v := ⟨true, 5#128, 3⟩ }
      (0#32).toNat + n.toNat ≤ Config.memSize ∧ s.keys.macmode ≠ .none ∧ s.s2v.act = true ∧
        s.Grants (mac1Reqs (max 16 n.toNat)) := by
  refine ⟨by decide, rfl, by decide, ?_⟩
  intro n hn s
  have h1 : (0#32).toNat + n.toNat ≤ Config.memSize ∧ mac1Reqs (max 16 n.toNat) ≤ 200 := by
    simp only [List.mem_cons, List.not_mem_nil, or_false] at hn
    rcases hn with rfl | rfl | rfl <;> decide
  exact ⟨h1.1, (by decide : MacMode.cmac ≠ .none), rfl, grants_of_answers rfl h1.2⟩

/-- No AD string, and 126 of them. -/
theorem wit_StepByStepS2v :
    ∀ ads ∈ [[], List.replicate 126 (65536#32, 0#32)],
      let s := ready .cmac []
      let strings := ads.map fun p : Word × Word => s.readBytes p.1.toNat p.2.toNat
      s.corrupt = false ∧ s.keys.macmode ≠ .none ∧ ads.length ≤ Config.maxAd ∧
        (∀ p ∈ ads, p.1.toNat + p.2.toNat ≤ Config.memSize) ∧ (0#32).toNat + (16#32).toNat ≤ Config.memSize ∧
        s.Grants (mac1Reqs 16 + (strings.map fun x => mac1Reqs x.length).sum + mac1Reqs (max 16 (16#32).toNat)) := by
  intro ads hads s strings
  simp only [List.mem_cons, List.not_mem_nil, or_false] at hads
  have hs : (strings.map fun x => mac1Reqs x.length).sum ≤ 126 ∧ ads.length ≤ Config.maxAd ∧
      ∀ p ∈ ads, p.1.toNat + p.2.toNat ≤ Config.memSize := by
    rcases hads with rfl | rfl
    · simp [strings]
    · refine ⟨?_, by simp [Config.maxAd], ?_⟩
      · have : strings = List.replicate 126 [] := by simp [strings, State.readBytes]
        rw [this, List.map_replicate, List.sum_replicate]
        decide
      · intro p hp
        rw [List.mem_replicate] at hp
        rw [hp.2]
        decide
  refine ⟨rfl, by decide, hs.2.1, hs.2.2, by decide, grants_of_answers rfl ?_⟩
  have h2 : mac1Reqs 16 = 1 ∧ mac1Reqs (max 16 (16#32).toNat) = 1 := by decide
  omega

theorem wit_CounterModeBytewise : 0 < ([7#8] : Bytes).length := by decide

theorem wit_CtrxTransforms :
    (Config.memSize < (65536#32).toNat + (1#32).toNat ∨ Config.memSize < (0#32).toNat + (1#32).toNat) ∧
    ((65535#32).toNat + (1#32).toNat ≤ Config.memSize ∧ State.reset.keys.ckey = []) ∧
    ((ready .cmac []).keys.ckey ≠ [] ∧ (ready .cmac []).Grants (if (0#32).toNat = 0 then 0 else 1) ∧
      (ready .cmac []).Grants (if (17#32).toNat = 0 then 0 else 1)) :=
  ⟨.inl (by decide), by decide, by decide, ready_grants _ _ (by decide), ready_grants _ _ (by decide)⟩

/-! ### AD lists and sealed strings in MEM -/

theorem lookup_zerosFrom (a n x : Nat) (h : a ≤ x ∧ x < a + n) : Memory.lookup (zerosFrom a n) x = some 0#8 := by
  induction n generalizing a with
  | zero => omega
  | succ n ih =>
    simp only [zerosFrom, Memory.lookup]
    split
    · rfl
    · exact ih (a + 1) ⟨by omega, by omega⟩

theorem byteAt_adMem {s : State} {n : Nat} (hm : s.mem = adMem n) {x : Nat} (h : 4 ≤ x ∧ x < 4 + 8 * n) :
    s.byteAt x = 0#8 := by
  have e : Memory.lookup (adMem n) x = Memory.lookup (zerosFrom 4 (8 * n)) x := by
    simp only [adMem, List.cons_append, List.nil_append, Memory.lookup]
    rw [if_neg (by omega), if_neg (by omega), if_neg (by omega), if_neg (by omega)]
  rw [State.byteAt, hm, e, lookup_zerosFrom _ _ _ h, Option.getD_some]

theorem word_adMem {s : State} {n : Nat} (hm : s.mem = adMem n) {x : Nat} (h : 4 ≤ x ∧ x + 3 < 4 + 8 * n) :
    s.word x = 0#32 := by
  rw [State.word, byteAt_adMem hm (by omega), byteAt_adMem hm (by omega), byteAt_adMem hm (by omega),
    byteAt_adMem hm (by omega)]
  rfl

theorem descPairs_adMem {s : State} {n : Nat} (hm : s.mem = adMem n) (k a : Nat) (h : 4 ≤ a ∧ a + 8 * k ≤ 4 + 8 * n) :
    s.descPairs a k = List.replicate k (0, 0) := by
  induction k generalizing a with
  | zero => rfl
  | succ k ih =>
    rw [State.descPairs, word_adMem hm (by omega), word_adMem hm (by omega), ih (a + 8) (by omega)]
    rfl

/-- A list of `n` empty AD strings reads as such. -/
theorem readAds_adMem {s : State} {n : Nat} (hn : n < 256) (hm : s.mem = adMem n) :
    s.readAds 0#32 = .ok (List.replicate n []) := by
  have hw : (s.word 0).toNat = n := by
    simp only [State.word, State.byteAt, hm, adMem, List.cons_append, List.nil_append, Memory.lookup, Nat.reduceAdd,
      Nat.reduceEqDiff, if_true, if_false, reduceCtorEq, OfNat.ofNat_ne_zero, Option.getD_some, beword]
    have e : (0#8 ++ 0#8 ++ 0#8 ++ BitVec.ofNat 8 n).toNat = n := by
      rw [BitVec.toNat_append]
      simp
      omega
    exact e
  have hd := descPairs_adMem hm n 4 (by omega)
  simp [State.readAds, hw, hd, legal, Config.memSize, State.readBytes]
  omega

theorem word_zero {s : State} {m : Memory} (hm : s.mem = adMem 0 ++ m) : s.word 0 = 0#32 := by
  simp only [State.word, State.byteAt, hm, adMem, List.cons_append, List.nil_append, Memory.lookup, Nat.reduceAdd,
    Nat.reduceEqDiff, if_true, if_false, reduceCtorEq, OfNat.ofNat_ne_zero, Option.getD_some, beword]
  rfl

/-- The list of no AD strings at 0 reads as such, whatever stands above it. -/
theorem readAds_empty {s : State} {m : Memory} (hm : s.mem = adMem 0 ++ m) : s.readAds 0#32 = .ok [] := by
  have hw := word_zero hm
  simp [State.readAds, hw, legal, Config.memSize, State.descPairs]

/-- A core that holds a sealed string of one tag and no ciphertext at 16. -/
def sealedAt (v : Block) : State := ready .cmac (memWithBlock v)

/-- The tag of the empty plaintext under the keys of `ready .cmac`. -/
def emptyTag (ads : List Bytes) : Block := s2vTag (Config.bc [1#8]) (keyed .cmac).keys ads []

/-- What an open of the sixteen bytes at 16 computes. -/
theorem open_facts {s : State} (ads : List Bytes) (v : Block) (hm : s.mem = memWithBlock v)
    (hk : s.keys = (keyed .cmac).keys) :
    let x := s.readBytes (16#32).toNat (16#32).toNat
    s2vTag (Config.bc s.keys.mkey) s.keys ads (ctr (Config.bc s.keys.ckey) (ivq (blockOf (x.take 16))) (x.drop 16)) =
      emptyTag ads ∧ blockOf (x.take 16) = v := by
  have hx : s.readBytes (16#32).toNat (16#32).toNat = blockBytes v := readBytes_memWithBlock s v hm
  intro x
  have h1 : x.take 16 = blockBytes v := by
    show (s.readBytes _ _).take 16 = _
    rw [hx, List.take_of_length_le (by simp)]
  have h2 : x.drop 16 = [] := by
    show (s.readBytes _ _).drop 16 = _
    rw [hx, List.drop_of_length_le (by simp)]
  rw [h1, h2, blockOf_blockBytes, hk]
  exact ⟨rfl, rfl⟩

/-- A block that is not `b`. -/
theorem exists_ne (b : Block) : ∃ c : Block, b ≠ c := by
  refine ⟨b + 1#128, ?_⟩
  intro h
  have : b + 0#128 = b + 1#128 := by rw [← h]; simp
  exact absurd (BitVec.add_right_inj b |>.mp this) (by decide)

/-! ### SIV -/

/-- No AD string and 126 of them; the sealed string up to the end of MEM; no plaintext and one byte of it. -/
theorem wit_SivsealWritesSealed :
    ∀ n ∈ [0, 126],
      let s := ready .cmac (adMem n)
      s.corrupt = false ∧ s.readAds 0#32 = .ok (List.replicate n []) ∧ (65535#32).toNat + (1#32).toNat ≤ Config.memSize ∧
        (65519#32).toNat + (16 + (1#32).toNat) ≤ Config.memSize ∧ BothKeys s ∧
        (List.replicate n ([] : Bytes)).length ≤ Config.maxAd ∧
        s.Grants (messageReqs (List.replicate n []) (1#32).toNat) := by
  intro n hn s
  simp only [List.mem_cons, List.not_mem_nil, or_false] at hn
  have h : n < 256 ∧ n ≤ Config.maxAd ∧ messageReqs (List.replicate n []) (1#32).toNat ≤ 200 := by
    rcases hn with rfl | rfl
    · decide
    · simp only [messageReqs, List.map_replicate, List.sum_replicate]
      decide
  exact ⟨rfl, readAds_adMem h.1 rfl, by decide, by decide, (ready_bothKeys _).1, by simpa using h.2.1,
    grants_of_answers rfl h.2.2⟩

/-- A tag alone that matches, and one that does not; the empty destination at the end of MEM. -/
theorem wit_SivopenWritesPlaintextOrZeros :
    ∃ v w : Block,
      (∀ s ∈ [sealedAt v, sealedAt w], s.corrupt = false ∧ s.readAds 0#32 = .ok [] ∧
        (16#32).toNat + (16#32).toNat ≤ Config.memSize ∧ 16 ≤ (16#32).toNat ∧
        (65536#32).toNat + ((16#32).toNat - 16) ≤ Config.memSize ∧ BothKeys s ∧
        ([] : List Bytes).length ≤ Config.maxAd ∧ s.Grants (messageReqs [] ((16#32).toNat - 16))) ∧
      (let s := sealedAt v
       let x := s.readBytes (16#32).toNat (16#32).toNat
       s2vTag (Config.bc s.keys.mkey) s.keys [] (ctr (Config.bc s.keys.ckey) (ivq (blockOf (x.take 16))) (x.drop 16)) =
         blockOf (x.take 16)) ∧
      (let s := sealedAt w
       let x := s.readBytes (16#32).toNat (16#32).toNat
       s2vTag (Config.bc s.keys.mkey) s.keys [] (ctr (Config.bc s.keys.ckey) (ivq (blockOf (x.take 16))) (x.drop 16)) ≠
         blockOf (x.take 16)) := by
  obtain ⟨w, hw⟩ := exists_ne (emptyTag [])
  refine ⟨emptyTag [], w, ?_, ?_, ?_⟩
  · intro s hs
    have : ∃ v, s = sealedAt v := by
      simp only [List.mem_cons, List.not_mem_nil, or_false] at hs
      rcases hs with rfl | rfl
      · exact ⟨_, rfl⟩
      · exact ⟨_, rfl⟩
    obtain ⟨v, rfl⟩ := this
    exact ⟨rfl, readAds_empty rfl, by decide, by decide, by decide, (ready_bothKeys _).1, by decide,
      grants_of_answers rfl (by decide)⟩
  · intro s x
    have h := open_facts (s := s) [] (emptyTag []) rfl rfl
    exact h.1.trans h.2.symm
  · intro s x
    have h := open_facts (s := s) [] w rfl rfl
    exact fun e => hw (h.1.symm.trans (e.trans h.2))

/-- Each check of an AD list next to its boundary: an address of remainder 1; a head and pairs that end one word past MEM;
strings one byte past it and up to its end. -/
theorem wit_SivopenChecksInOrder_list :
    (1#32).toNat % 4 ≠ 0 ∧ ((65536#32).toNat % 4 = 0 ∧ ¬InMem ((65536#32).toNat, 4)) ∧
    (let s := { State.reset with mem := memOf 65528 [0#8, 0#8, 0#8, 1#8] }
     (65528#32).toNat % 4 = 0 ∧ InMem ((65528#32).toNat, 4) ∧
      ¬InMem ((65528#32).toNat + 4, 8 * (s.word (65528#32).toNat).toNat)) ∧
    (let s := { State.reset with mem := memOf 65524 [0#8, 0#8, 0#8, 1#8, 0#8, 0#8, 0xFF#8, 0xFF#8, 0#8, 0#8, 0#8, 2#8] }
     (65524#32).toNat % 4 = 0 ∧ InMem ((65524#32).toNat + 4, 8 * (s.word (65524#32).toNat).toNat) ∧
      0 < (s.word (65524#32).toNat).toNat ∧ ¬InMem (entryAddr s 65524#32 0, entryLen s 65524#32 0)) ∧
    (let s := { State.reset with mem := memOf 65524 [0#8, 0#8, 0#8, 1#8, 0#8, 0#8, 0xFF#8, 0xFF#8, 0#8, 0#8, 0#8, 1#8] }
     InMem ((65524#32).toNat + 4, 8 * (s.word (65524#32).toNat).toNat) ∧ (s.word (65524#32).toNat).toNat = 1 ∧
      InMem (entryAddr s 65524#32 0, entryLen s 65524#32 0)) ∧
    State.reset.corrupt = false ∧ State.reset.readAds 1#32 = .error .align := by
  unfold InMem
  decide +kernel

/-- Each operand check next to its boundary: ranges at the end of MEM and one byte past it, one key, 126 and 127 AD
strings with the nonce counted for AEAD, and a sealed input of 15 bytes. -/
theorem wit_SivopenChecksInOrder_operands :
    (¬InMem ((65536#32).toNat, (1#32).toNat) ∧ ¬InMem ((65521#32).toNat, 16 + (0#32).toNat) ∧
      ¬InMem ((65536#32).toNat, (17#32).toNat - 16)) ∧
    (InMem ((65536#32).toNat, (0#32).toNat) ∧ InMem ((65520#32).toNat, 16 + (0#32).toNat) ∧
      InMem ((65535#32).toNat, (17#32).toNat - 16) ∧ InMem ((65521#32).toNat, (15#32).toNat)) ∧
    (let s := { ready .cmac (adMem 0) with keys := { Keys.cleared with mkey := [1#8], macmode := .cmac } }
     s.corrupt = false ∧ s.readAds 0#32 = .ok [] ∧ ¬BothKeys s) ∧
    (∀ n ∈ [125, 126, 127],
      let s := ready .cmac (adMem n)
      s.corrupt = false ∧ s.readAds 0#32 = .ok (List.replicate n []) ∧ BothKeys s) ∧
    126 < (List.replicate 127 ([] : Bytes)).length ∧ (List.replicate 126 ([] : Bytes)).length ≤ 126 ∧
    126 < (List.replicate 126 ([] : Bytes)).length + 1 ∧ (List.replicate 125 ([] : Bytes)).length + 1 ≤ 126 ∧
    (15#32).toNat < 16 := by
  refine ⟨by unfold InMem; decide, by unfold InMem; decide, ⟨rfl, readAds_adMem (n := 0) (by omega) rfl, fun h => h.2 rfl⟩,
    ?_, by simp, by simp, by simp, by simp, by decide⟩
  intro n hn
  simp only [List.mem_cons, List.not_mem_nil, or_false] at hn
  exact ⟨rfl, readAds_adMem (by omega) rfl, (ready_bothKeys _).1⟩

/-- One byte sealed from the last address of MEM, its sealed string opened back over it. -/
theorem wit_SealThenOpenRestoresPlaintext :
    let s := ready .cmac (adMem 0)
    s.corrupt = false ∧ s.err = false ∧ s.readAds 0#32 = .ok [] ∧ (65535#32).toNat + (1#32).toNat ≤ Config.memSize ∧
      (16#32).toNat + (16 + (1#32).toNat) ≤ Config.memSize ∧ (65535#32).toNat + (1#32).toNat ≤ Config.memSize ∧
      (17#32).toNat = 16 + (1#32).toNat ∧ BothKeys s ∧ ([] : List Bytes).length ≤ Config.maxAd ∧
      s.Grants (messageReqs [] (1#32).toNat + messageReqs [] (1#32).toNat) ∧
      (s.writeBytes (16#32).toNat
        (sivSeal Config.bc s.keys [] (s.readBytes (65535#32).toNat (1#32).toNat))).readAds 0#32 = .ok [] := by
  intro s
  refine ⟨rfl, rfl, readAds_adMem (n := 0) (by omega) rfl, by decide, by decide, by decide, by decide, (ready_bothKeys _).1, by decide,
    grants_of_answers rfl (by decide), ?_⟩
  have hw : ∀ bs : Bytes, (s.writeBytes 16 bs).word 0 = 0#32 := by
    intro bs
    have h : ∀ x, x < 16 → (s.writeBytes 16 bs).byteAt x = s.byteAt x := fun x hx =>
      State.byteAt_writeBytes_outside s 16 x bs (.inl hx)
    rw [State.word, h 0 (by omega), h (0 + 1) (by omega), h (0 + 2) (by omega), h (0 + 3) (by omega)]
    exact word_zero (s := s) (m := []) rfl
  show State.readAds (s.writeBytes 16 _) 0#32 = _
  simp [State.readAds, hw, legal, Config.memSize, State.descPairs]

/-! ### AEAD -/

/-- Two lists over the same bytes: none at 0, and one empty string at 4. -/
def twoLists : Memory := memOf 0 [0#8, 0#8, 0#8, 0#8, 0#8, 0#8, 0#8, 1#8, 0#8, 0#8, 0#8, 0#8, 0#8, 0#8, 0#8, 0#8]

/-- 125 AD strings, with no list that ends with the nonce; and such a list beside the other. -/
theorem wit_AeadsealIsSivsealWithNonce :
    (let s := ready .cmac (adMem 125)
     s.corrupt = false ∧ s.readAds 0#32 = .ok (List.replicate 125 []) ∧
      (65536#32).toNat + (0#32).toNat ≤ Config.memSize ∧ (65520#32).toNat + (16 + (0#32).toNat) ≤ Config.memSize ∧
      BothKeys s ∧ (List.replicate 125 ([] : Bytes)).length + 1 ≤ Config.maxAd ∧
      s.Grants (messageReqs (List.replicate 125 [] ++ [s.readBytes (65536#32).toNat (0#32).toNat]) (0#32).toNat)) ∧
    (let s := ready .cmac twoLists
     s.corrupt = false ∧ s.readAds 0#32 = .ok [] ∧
      s.readAds 4#32 = .ok ([] ++ [s.readBytes (65536#32).toNat (0#32).toNat]) ∧ BothKeys s ∧
      s.Grants (messageReqs ([] ++ [s.readBytes (65536#32).toNat (0#32).toNat]) (0#32).toNat)) := by
  refine ⟨⟨rfl, readAds_adMem (by omega) rfl, by decide, by decide, (ready_bothKeys _).1, by simp [Config.maxAd],
      grants_of_answers rfl ?_⟩,
    rfl, by decide +kernel, by decide +kernel, (ready_bothKeys _).1, grants_of_answers rfl (by decide)⟩
  show messageReqs (List.replicate 125 [] ++ [[]]) 0 ≤ 200
  simp only [messageReqs, List.map_append, List.map_replicate, List.sum_append, List.sum_replicate]
  decide

/-- The empty nonce; a tag that matches and one that does not. -/
theorem wit_AeadopenWritesPlaintextOrZeros :
    ∃ v w : Block,
      (∀ s ∈ [sealedAt v, sealedAt w], s.corrupt = false ∧ s.readAds 0#32 = .ok [] ∧
        (65536#32).toNat + (0#32).toNat ≤ Config.memSize ∧ (16#32).toNat + (16#32).toNat ≤ Config.memSize ∧
        16 ≤ (16#32).toNat ∧ (65536#32).toNat + ((16#32).toNat - 16) ≤ Config.memSize ∧ BothKeys s ∧
        ([] : List Bytes).length + 1 ≤ Config.maxAd ∧
        s.Grants (messageReqs ([] ++ [s.readBytes (65536#32).toNat (0#32).toNat]) ((16#32).toNat - 16))) ∧
      (let s := sealedAt v
       let x := s.readBytes (16#32).toNat (16#32).toNat
       s2vTag (Config.bc s.keys.mkey) s.keys ([] ++ [s.readBytes (65536#32).toNat (0#32).toNat])
         (ctr (Config.bc s.keys.ckey) (ivq (blockOf (x.take 16))) (x.drop 16)) = blockOf (x.take 16)) ∧
      (let s := sealedAt w
       let x := s.readBytes (16#32).toNat (16#32).toNat
       s2vTag (Config.bc s.keys.mkey) s.keys ([] ++ [s.readBytes (65536#32).toNat (0#32).toNat])
         (ctr (Config.bc s.keys.ckey) (ivq (blockOf (x.take 16))) (x.drop 16)) ≠ blockOf (x.take 16)) := by
  obtain ⟨w, hw⟩ := exists_ne (emptyTag [[]])
  refine ⟨emptyTag [[]], w, ?_, ?_, ?_⟩
  · intro s hs
    have : ∃ v, s = sealedAt v := by
      simp only [List.mem_cons, List.not_mem_nil, or_false] at hs
      rcases hs with rfl | rfl
      · exact ⟨_, rfl⟩
      · exact ⟨_, rfl⟩
    obtain ⟨v, rfl⟩ := this
    exact ⟨rfl, readAds_empty rfl, by decide, by decide, by decide, by decide, (ready_bothKeys _).1, by decide,
      grants_of_answers rfl (by decide : messageReqs [[]] 0 ≤ 200)⟩
  · intro s x
    have h := open_facts (s := s) [[]] (emptyTag [[]]) rfl rfl
    exact h.1.trans h.2.symm
  · intro s x
    have h := open_facts (s := s) [[]] w rfl rfl
    exact fun e => hw (h.1.symm.trans (e.trans h.2))

/-! ### STREAM -/

/-- `ready` with a stream under way. -/
def streaming (dir : Dir) (ctr : Word) (mem : Memory) : State :=
  { ready .cmac mem with stream := ⟨.active, dir, List.replicate 8 0#8, ctr⟩ }

theorem streaming_bothKeys (dir : Dir) (ctr : Word) (mem : Memory) : BothKeys (streaming dir ctr mem) :=
  bothKeys_of (m := .cmac) (by decide) rfl rfl

theorem wit_StinitSetsUpStream :
    State.reset.corrupt = false ∧ Config.memSize < (65529#32).toNat + 8 ∧ (65528#32).toNat + 8 ≤ Config.memSize ∧
    ¬BothKeys State.reset ∧ BothKeys (ready .pmac []) :=
  ⟨rfl, by decide, by decide, fun h => h.1 rfl, (ready_bothKeys _).2⟩

/-- Not the last chunk at the last counter but one, and the last chunk at the last counter. -/
theorem wit_StsealSealsChunk :
    ∀ c ∈ [(Chunk.more, 0xFFFFFFFE#32), (.last, 0xFFFFFFFF#32)],
      let s := streaming .enc c.2 []
      s.corrupt = false ∧ (65536#32).toNat + (0#32).toNat ≤ Config.memSize ∧
        (65520#32).toNat + (16 + (0#32).toNat) ≤ Config.memSize ∧ BothKeys s ∧ s.stream.state = .active ∧
        s.stream.dir = .enc ∧ (c.1 = .more → s.stream.ctr ≠ 0xFFFFFFFF#32) ∧
        s.Grants (messageReqs (chunkStrings s c.1 65536#32 0#32) (0#32).toNat) := by
  intro c hc s
  simp only [List.mem_cons, List.not_mem_nil, or_false] at hc
  refine ⟨rfl, by decide, by decide, streaming_bothKeys _ _ _, rfl, rfl, ?_, grants_of_answers rfl ?_⟩
  · rcases hc with rfl | rfl <;> decide
  · rcases hc with rfl | rfl <;> decide

/-- For both marks, a tag that matches and one that does not. -/
theorem wit_StopenOpensChunk :
    ∀ c ∈ [(Chunk.more, 0xFFFFFFFE#32), (.last, 0xFFFFFFFF#32)], ∃ v w : Block,
      (∀ b ∈ [v, w],
        let s := streaming .dec c.2 (memWithBlock b)
        s.corrupt = false ∧ (65536#32).toNat + (0#32).toNat ≤ Config.memSize ∧
          (16#32).toNat + (16#32).toNat ≤ Config.memSize ∧ 16 ≤ (16#32).toNat ∧
          (65536#32).toNat + ((16#32).toNat - 16) ≤ Config.memSize ∧ BothKeys s ∧ s.stream.state = .active ∧
          s.stream.dir = .dec ∧ (c.1 = .more → s.stream.ctr ≠ 0xFFFFFFFF#32) ∧
          s.Grants (messageReqs (chunkStrings s c.1 65536#32 0#32) ((16#32).toNat - 16))) ∧
      (let s := streaming .dec c.2 (memWithBlock v)
       let x := s.readBytes (16#32).toNat (16#32).toNat
       s2vTag (Config.bc s.keys.mkey) s.keys (chunkStrings s c.1 65536#32 0#32)
         (ctr (Config.bc s.keys.ckey) (ivq (blockOf (x.take 16))) (x.drop 16)) = blockOf (x.take 16)) ∧
      (let s := streaming .dec c.2 (memWithBlock w)
       let x := s.readBytes (16#32).toNat (16#32).toNat
       s2vTag (Config.bc s.keys.mkey) s.keys (chunkStrings s c.1 65536#32 0#32)
         (ctr (Config.bc s.keys.ckey) (ivq (blockOf (x.take 16))) (x.drop 16)) ≠ blockOf (x.take 16)) := by
  intro c hc
  simp only [List.mem_cons, List.not_mem_nil, or_false] at hc
  have hall : ∃ all : List Bytes, ∀ b, chunkStrings (streaming .dec c.2 (memWithBlock b)) c.1 65536#32 0#32 = all :=
    ⟨[[], List.replicate 8 0#8 ++ be32 c.2 ++ [if c.1 = .last then 0x01#8 else 0x00#8]], fun b => rfl⟩
  have hreq : ∀ b, messageReqs (chunkStrings (streaming .dec c.2 (memWithBlock b)) c.1 65536#32 0#32)
      ((16#32).toNat - 16) ≤ 200 := by
    intro b
    rcases hc with rfl | rfl <;> exact (by decide : (4 : Nat) ≤ 200)
  obtain ⟨all, hall⟩ := hall
  obtain ⟨w, hw⟩ := exists_ne (emptyTag all)
  refine ⟨emptyTag all, w, ?_, ?_, ?_⟩
  · intro b _ s
    refine ⟨rfl, by decide, by decide, by decide, by decide, streaming_bothKeys _ _ _, rfl, rfl, ?_,
      grants_of_answers rfl (hreq b)⟩
    rcases hc with rfl | rfl <;> simp [s, streaming]
  · intro s x
    rw [show chunkStrings s c.1 65536#32 0#32 = all from hall _]
    have h := open_facts (s := s) all (emptyTag all) rfl rfl
    exact h.1.trans h.2.symm
  · intro s x
    rw [show chunkStrings s c.1 65536#32 0#32 = all from hall _]
    have h := open_facts (s := s) all w rfl rfl
    exact fun e => hw (h.1.symm.trans (e.trans h.2))

/-- Destinations at the end of MEM and one byte past it, for a seal and for an open; one key; each stream state and
direction; the last counter and the one before it; a sealed input of 15 bytes. -/
theorem wit_StreamRefusesChunks :
    (¬InMem ((65536#32).toNat, (1#32).toNat) ∧ ¬InMem ((65521#32).toNat, 16 + (0#32).toNat) ∧
      ¬InMem ((65536#32).toNat, (17#32).toNat - 16)) ∧
    (InMem ((65536#32).toNat, (0#32).toNat) ∧ InMem ((65520#32).toNat, 16 + (0#32).toNat) ∧
      InMem ((65535#32).toNat, (17#32).toNat - 16) ∧ InMem ((65521#32).toNat, (15#32).toNat)) ∧
    (State.reset.corrupt = false ∧ ¬BothKeys State.reset) ∧
    ((ready .cmac []).stream.state ≠ .active ∧ BothKeys (ready .cmac [])) ∧
    (∀ d c, (streaming d c []).corrupt = false ∧ BothKeys (streaming d c []) ∧ (streaming d c []).stream.state = .active ∧
      (streaming d c []).stream.ctr = c ∧ (streaming d c []).stream.dir = d) ∧
    0xFFFFFFFE#32 ≠ 0xFFFFFFFF#32 ∧ (15#32).toNat < 16 :=
  ⟨by unfold InMem; decide, by unfold InMem; decide, ⟨rfl, fun h => h.1 rfl⟩, ⟨by decide, (ready_bothKeys _).1⟩,
    fun _ _ => ⟨rfl, streaming_bothKeys _ _ _, rfl, rfl, rfl⟩, by decide, by decide⟩

theorem wit_ChunkNoncesDiffer :
    ∃ (pfx : Bytes) (c c' : Word) (l l' : Chunk), streamNonce pfx c l = streamNonce pfx c' l' :=
  ⟨[], 5#32, 5#32, .more, .more, rfl⟩

/-- A chunk that is not the last, at the last counter but one. -/
theorem wit_StreamCounterNeverWraps :
    ∃ (i : Instr) (s t : State), restartsStream i = false ∧ exec i s = .next t ∧ t.stream.ctr = 0xFFFFFFFF#32 ∧
      s.stream.ctr = 0xFFFFFFFE#32 := by
  have h : ((nextOf (exec (.stseal .more 65536#32 0#32 0#32 0#32 65520#32) (streaming .enc 0xFFFFFFFE#32 []))).map
      fun t => t.stream.ctr) = some 0xFFFFFFFF#32 := by decide +kernel
  obtain ⟨t, ht⟩ := exists_next (o := exec (.stseal .more 65536#32 0#32 0#32 0#32 65520#32) (streaming .enc 0xFFFFFFFE#32 []))
    (by decide +kernel)
  rw [ht] at h
  exact ⟨_, _, t, rfl, ht, by simpa [nextOf] using h, rfl⟩

/-! ### Rules over every command -/

theorem wit_CorruptStateGate :
    let s := { ready .cmac [] with corrupt := true }
    s.corrupt = true ∧ runsCorrupt .mreset = false ∧ runsCorrupt .kclear = true ∧ s.errcode = 0#8 ∧
      ∃ t, exec .kclear s = .next t := ⟨rfl, rfl, rfl, rfl, exists_next (by decide +kernel)⟩

/-- MRESET with no key, KIMPORT of no bytes and STSEAL at the last counter, each run by a step; and a short open by
each of the three commands. -/
theorem wit_CheckErrorsChangeNothing :
    (∀ c ∈ [(State.reset, [0x30#8, 0#8, 0#8, 0#8], Err.noKey),
        (ready .cmac [], [0x20#8, 0#8, 0#8, 0#8], .invalidKey),
        (streaming .enc 0xFFFFFFFF#32 [], [0x61#8, 0#8, 0#8, 0#8], .counterOverflow)],
      let s := c.1.withCommandBytes (c.2.1 ++ List.replicate 24 0#8)
      s.host = [] ∧ s.busy = true ∧ s.errcode = 0#8 ∧ ∃ t, step s = .next t ∧ t.errcode = c.2.2.code) ∧
    (∀ i ∈ [Instr.sivopen 0#32 0#32 15#32 0#32, .aeadopen 0#32 0#32 0#32 0#32 15#32 0#32],
      (ready .cmac (adMem 0)).errcode = 0#8 ∧ (15#32).toNat < 16 ∧
        ∃ t, exec i (ready .cmac (adMem 0)) = .next t ∧ t.errcode = Err.integrity.code) ∧
    ∃ t, exec (.stopen .last 0#32 0#32 0#32 15#32 0#32) (streaming .dec 0#32 []) = .next t ∧
      t.errcode = Err.integrity.code := by
  have key : ∀ (o : Host.Outcome State Fault Refusal) (e : Byte), (nextOf o).map (fun t => t.errcode) = some e →
      ∃ t, o = .next t ∧ t.errcode = e := by
    intro o e h
    cases o with
    | next t => exact ⟨t, rfl, by simpa [nextOf] using h⟩
    | fault r => cases r
    | refused r => cases h
  refine ⟨?_, ?_, key _ _ (by decide +kernel)⟩
  · intro c hc s
    simp only [List.mem_cons, List.not_mem_nil, or_false] at hc
    rcases hc with rfl | rfl | rfl
    · exact ⟨rfl, rfl, by decide +kernel, key _ _ (by decide +kernel)⟩
    · exact ⟨rfl, rfl, by decide +kernel, key _ _ (by decide +kernel)⟩
    · exact ⟨rfl, rfl, by decide +kernel, key _ _ (by decide +kernel)⟩
  · intro i hi
    simp only [List.mem_cons, List.not_mem_nil, or_false] at hi
    rcases hi with rfl | rfl
    · exact ⟨rfl, by decide, key _ _ (by decide +kernel)⟩
    · exact ⟨rfl, by decide, key _ _ (by decide +kernel)⟩

/-- MFINISH, KIMPORT, SIVOPEN and SIVSEAL whose first request fails; and SIVSEAL with every request granted. -/
theorem wit_ProviderFaultEffects :
    (∀ c ∈ [(Instr.mfinish .b0, ready .cmac []), (.sivopen 0#32 16#32 16#32 65536#32, sealedAt 0#128),
        (.sivseal 0#32 65536#32 0#32 65520#32, ready .pmac (adMem 0))],
      let s := { c.2 with answers := [.fail] }
      s.errcode = 0#8 ∧ importsKey c.1 = false ∧ ∃ t, exec c.1 s = .next t ∧ t.errcode = Err.providerFault.code) ∧
    (∃ (len : Word) (s t : State), s.errcode = 0#8 ∧ importsKey (.kimport .cmac 0#32 len) = true ∧
      exec (.kimport .cmac 0#32 len) s = .next t ∧ t.errcode = Err.providerFault.code) ∧
    (opensMessage (.sivopen 0#32 16#32 16#32 65536#32) = true ∧
      opensMessage (.sivseal 0#32 65536#32 0#32 65520#32) = false) ∧
    ∃ u, exec (.sivseal 0#32 65536#32 0#32 65520#32)
        { ready .pmac (adMem 0) with answers := List.replicate 200 .ok } = .next u ∧
      u.err = (ready .pmac (adMem 0)).err ∧ u.cpc ≠ (ready .pmac (adMem 0)).cpc := by
  have key : ∀ (o : Host.Outcome State Fault Refusal), (nextOf o).map (fun t => t.errcode) = some 0x40#8 →
      ∃ t, o = .next t ∧ t.errcode = Err.providerFault.code := by
    intro o h
    cases o with
    | next t => exact ⟨t, rfl, by simpa [nextOf, Err.code] using h⟩
    | fault r => cases r
    | refused r => cases h
  refine ⟨?_, ?_, ⟨rfl, rfl⟩, ?_⟩
  · intro c hc s
    simp only [List.mem_cons, List.not_mem_nil, or_false] at hc
    rcases hc with rfl | rfl | rfl
    · exact ⟨rfl, rfl, key _ (by decide +kernel)⟩
    · exact ⟨rfl, rfl, key _ (by decide +kernel)⟩
    · exact ⟨rfl, rfl, key _ (by decide +kernel)⟩
  · have hl := someKeyLen_le
    have e1 : (BitVec.ofNat 32 someKeyLen).toNat = someKeyLen := by simp; omega
    have hs : splitKey .cmac (State.operand { State.reset with answers := [.fail] } 0#32 (BitVec.ofNat 32 someKeyLen)) =
        some (State.operand { State.reset with answers := [.fail] } 0#32 (BitVec.ofNat 32 someKeyLen), []) := by
      simp only [splitKey, State.operand, State.readBytes_length, e1, someKeyLen_ok, if_true]
    have hr : legalRange 0#32 (BitVec.ofNat 32 someKeyLen) = true := by
      simp [legalRange, legal, e1, Config.memSize]
      omega
    have hp : ∃ j : Job, j.base.verdict j.reqs = .failed 0 ∧
        planKimport .cmac 0#32 (BitVec.ofNat 32 someKeyLen) { State.reset with answers := [.fail] } = .go j := by
      simp only [planKimport, hr, hs, Bool.not_true, Bool.false_eq_true, if_false]
      exact ⟨_, rfl, rfl⟩
    obtain ⟨j, hv, hp⟩ := hp
    refine ⟨BitVec.ofNat 32 someKeyLen, { State.reset with answers := [.fail] }, j.fail 0, rfl, rfl, ?_, rfl⟩
    show runPlan _ 12 (planKimport _ _ _ _) = _
    rw [hp]
    simp only [runPlan, hv]
  · exact completes (c := 20#32) rfl rfl (by decide +kernel)

theorem wit_CommandOutcomes :
    let s := { State.reset with busy := true }
    s.busy = true ∧ s.done = false ∧ s.err = false ∧ s.errcode = 0#8 ∧ s.errpc = 0#32 := by decide

/-- The frames' hypothesis, for a command of each shape, and an address at each edge of a destination range. -/
theorem wit_frames :
    (∀ i ∈ [Instr.nop, .bclr .b0, .bst .b0 65520#32, .ctrx .b0 0#32 1#32 65535#32, .sivseal 0#32 0#32 0#32 65520#32,
        .stinit .enc 0#32],
      ∃ t, exec i (ready .cmac (adMem 0)) = .next t) ∧
    importsKey .nop = false ∧ Instr.nop ≠ .kclear ∧ writesStream .nop = false ∧ target (.bclr .b0) ≠ some .b3 ∧
    outside (.bst .b0 0x100#32) 0xFF ∧ outside (.bst .b0 0x100#32) 0x110 ∧ outside .nop 0 := by
  refine ⟨?_, rfl, by decide, rfl, by decide, .inl (by decide), .inr (by decide), .inr (by decide)⟩
  intro i hi
  simp only [List.mem_cons, List.not_mem_nil, or_false] at hi
  rcases hi with rfl | rfl | rfl | rfl | rfl | rfl <;> exact exists_next (by decide +kernel)

/-! ### The host -/

/-- CTRL with SRESET, with GO, with IRQEN alone, and with ABORT while idle; STATUS; CPTR; the last byte of MEM and the
address after it; accesses of a width of 2, at offsets 0x11, 0x14 and 0x100. -/
theorem wit_HostWritesTakeEffect :
    (∀ v ∈ [2#32, 0x101#32, 0x100#32, 4#32],
      ({ State.reset with host := [.mmioWrite 4 0x04 v] } : State).host = .mmioWrite 4 0x04 v :: []) ∧
    ((2#32).getLsbD 1 = true ∧ (0x101#32).getLsbD 1 = false ∧ (0x101#32).getLsbD 0 = true ∧
      (0x101#32).getLsbD 2 = false ∧ (0x100#32).getLsbD 1 = false ∧ (0x100#32).getLsbD 0 = false ∧
      (4#32).getLsbD 1 = false ∧ (4#32).getLsbD 0 = false) ∧
    State.reset.busy = false ∧ ({ State.reset with busy := true } : State).busy = true ∧
    ({ State.reset with host := [.mmioWrite 4 0x08 6#32] } : State).host = .mmioWrite 4 0x08 6#32 :: [] ∧
    ({ State.reset with host := [.mmioWrite 4 0x10 0xFFFFFFFF#32] } : State).host =
      .mmioWrite 4 0x10 0xFFFFFFFF#32 :: [] ∧
    (∀ p ∈ [(2, 0x10), (4, 0x11), (4, 0x14), (4, 0x100), (4, 0x00), (4, 0x24)],
      ({ State.reset with host := [.mmioWrite p.1 p.2 1#32] } : State).host = .mmioWrite p.1 p.2 1#32 :: [] ∧
      (p.1 ≠ 4 ∨ p.2 % 4 ≠ 0 ∨ 256 ≤ p.2 ∨ (p.2 ≠ 0x04 ∧ p.2 ≠ 0x08 ∧ p.2 ≠ 0x10))) ∧
    (∀ a ∈ [65535, 65536],
      ({ State.reset with host := [.memWrite a 7#8] } : State).host = .memWrite a 7#8 :: []) ∧
    65535 < Config.memSize ∧ Config.memSize ≤ 65536 :=
  ⟨fun _ _ => rfl, by decide, rfl, rfl, rfl, rfl,
    fun p hp => ⟨rfl, (by decide : ∀ p ∈ [(2, 0x10), (4, 0x11), (4, 0x14), (4, 0x100), (4, 0x00), (4, 0x24)],
      p.1 ≠ 4 ∨ p.2 % 4 ≠ 0 ∨ 256 ≤ p.2 ∨ (p.2 ≠ 0x04 ∧ p.2 ≠ 0x08 ∧ p.2 ≠ 0x10)) p hp⟩,
    fun _ _ => rfl, by decide, by decide⟩

/-- ABORT, alone and with GO, with a command at CPC, with KIMPORT there, and with none (CPC at the end of MEM). -/
theorem wit_AbortEndsRunCorrupted :
    ∀ v ∈ [4#32, 5#32],
      let s := { ready .cmac (memOf 0 [0x32#8, 0#8, 0#8, 0#8]) with busy := true, host := [.mmioWrite 4 0x04 v] }
      let k := { s with mem := memOf 0 ([0x20#8] ++ List.replicate 11 0#8) }
      let t := { s with cpc := 65536#32 }
      (s.host = .mmioWrite 4 0x04 v :: [] ∧ s.busy = true ∧ v.getLsbD 1 = false ∧ v.getLsbD 2 = true ∧
        s.fetch = .ok (.mfinish .b0) ∧ importsKey (.mfinish .b0) = false ∧ target (.mfinish .b0) ≠ some .b1) ∧
      (k.fetch = .ok (.kimport .cmac 0#32 0#32) ∧ importsKey (.kimport .cmac 0#32 0#32) = true) ∧
      t.fetch = .error .fetch := by
  intro v hv
  simp only [List.mem_cons, List.not_mem_nil, or_false] at hv
  rcases hv with rfl | rfl <;> decide +kernel

/-- POS = 16 and NAD = 126; an idle core and a run; a read of width 2, and reads at offsets 0x15, 0x24 and 0x100. -/
theorem wit_StatusShowsState :
    State.reset.busy = false ∧ State.reset.acc.pos ≤ 16 ∧
    ({ State.reset with acc := { Acc.cleared with pos := 16 } } : State).acc.pos ≤ 16 ∧
    ({ State.reset with s2v := ⟨true, 0#128, 126⟩ } : State).s2v.nad ≤ Config.maxAd ∧
    ({ State.reset with busy := true } : State).busy = true ∧
    ∀ p ∈ [(2, 0x14), (4, 0x15), (4, 0x24), (4, 0x100)], p.1 ≠ 4 ∨ p.2 % 4 ≠ 0 ∨ 0x24 ≤ p.2 := by decide

end Sys2Proof.Tests
end

/-!
PROOFS. The decoder's check of a header against its class's mask (30_encoding.md R145, R146) is the five checks of R144;
what a fetch reads first is the word at CPC; a header that does not decode makes the step raise ILLEGAL (R181).
-/

namespace Sys2Proof

/-! ### A header as its five fields (R141) -/

theorem Header.eq_append_fields (h : Word) :
    h = Header.opc h ++ Header.rd h ++ Header.rs h ++ Header.fl h ++ Header.z h := by
  unfold Header.opc Header.rd Header.rs Header.fl Header.z
  rw [BitVec.extractLsb'_append_extractLsb'_eq_extractLsb' (show 24 = 20 + 4 from rfl),
    BitVec.extractLsb'_append_extractLsb'_eq_extractLsb' (show 20 = 16 + 4 from rfl),
    BitVec.extractLsb'_append_extractLsb'_eq_extractLsb' (show 16 = 8 + 8 from rfl),
    BitVec.extractLsb'_append_extractLsb'_eq_extractLsb' (show 8 = 0 + 8 from rfl)]
  exact BitVec.extractLsb'_eq_self.symm

theorem Header.eq_iff_fields {h k : Word} :
    h = k ↔ Header.opc h = Header.opc k ∧ Header.rd h = Header.rd k ∧ Header.rs h = Header.rs k ∧
      Header.fl h = Header.fl k ∧ Header.z h = Header.z k := by
  constructor
  · rintro rfl
    exact ⟨rfl, rfl, rfl, rfl, rfl⟩
  · rintro ⟨hopc, hrd, hrs, hfl, hz⟩
    rw [Header.eq_append_fields h, hopc, hrd, hrs, hfl, hz, ← Header.eq_append_fields k]

@[simp] theorem Header.opc_and (h k : Word) : Header.opc (h &&& k) = Header.opc h &&& Header.opc k :=
  BitVec.extractLsb'_and
@[simp] theorem Header.rd_and (h k : Word) : Header.rd (h &&& k) = Header.rd h &&& Header.rd k :=
  BitVec.extractLsb'_and
@[simp] theorem Header.rs_and (h k : Word) : Header.rs (h &&& k) = Header.rs h &&& Header.rs k :=
  BitVec.extractLsb'_and
@[simp] theorem Header.fl_and (h k : Word) : Header.fl (h &&& k) = Header.fl h &&& Header.fl k :=
  BitVec.extractLsb'_and
@[simp] theorem Header.z_and (h k : Word) : Header.z (h &&& k) = Header.z h &&& Header.z k :=
  BitVec.extractLsb'_and

@[simp] theorem Op.opc_fixed (o : Op) : Header.opc o.fixed = o.code := BitVec.extractLsb'_append_eq_left
@[simp] theorem Op.rd_fixed (o : Op) : Header.rd o.fixed = 0#4 := by cases o <;> rfl
@[simp] theorem Op.rs_fixed (o : Op) : Header.rs o.fixed = 0#4 := by cases o <;> rfl
@[simp] theorem Op.fl_fixed (o : Op) : Header.fl o.fixed = 0#8 := by cases o <;> rfl
@[simp] theorem Op.z_fixed (o : Op) : Header.z o.fixed = 0#8 := by cases o <;> rfl

/-! ### A class's mask, field by field (R145) -/

/-- The bits of a register field that are fixed: bits 3:2 where the class uses the field, all four where it does not. -/
def regMask (used : Bool) : BitVec 4 := if used then 0xC#4 else 0xF#4

@[simp] theorem HeaderClass.opc_mask (c : HeaderClass) : Header.opc c.mask = BitVec.allOnes 8 := by cases c <;> rfl
@[simp] theorem HeaderClass.rd_mask (c : HeaderClass) : Header.rd c.mask = regMask c.usesRd := by cases c <;> rfl
@[simp] theorem HeaderClass.rs_mask (c : HeaderClass) : Header.rs c.mask = regMask c.usesRs := by cases c <;> rfl
@[simp] theorem HeaderClass.fl_mask (c : HeaderClass) : Header.fl c.mask = ~~~c.flBits := by cases c <;> rfl
@[simp] theorem HeaderClass.z_mask (c : HeaderClass) : Header.z c.mask = BitVec.allOnes 8 := by cases c <;> rfl

/-- The fixed bits of a register field are zero exactly when the field is zero where unused, and at most 3 where used. -/
theorem and_regMask_eq_zero : ∀ (used : Bool) (r : BitVec 4),
    r &&& regMask used = 0#4 ↔ (used = true ∨ r = 0#4) ∧ (used = false ∨ r ≤ 3#4) := by decide

/-- The mask comparison of R146 makes the four checks of R144 on the fields after OPC. -/
theorem Op.and_mask_eq_fixed_iff (o : Op) {h : Word} (hopc : Header.opc h = o.code) :
    h &&& o.cls.mask = o.fixed ↔
      (Header.zZero h && Header.unusedZero o.cls h && Header.regsInRange o.cls h &&
        Header.flagsInRange o.cls h) = true := by
  simp only [Header.eq_iff_fields, Header.opc_and, Header.rd_and, Header.rs_and, Header.fl_and, Header.z_and,
    HeaderClass.opc_mask, HeaderClass.rd_mask, HeaderClass.rs_mask, HeaderClass.fl_mask, HeaderClass.z_mask,
    Op.opc_fixed, Op.rd_fixed, Op.rs_fixed, Op.fl_fixed, Op.z_fixed, and_regMask_eq_zero, BitVec.and_allOnes, hopc,
    Header.zZero, Header.unusedZero, Header.regsInRange, Header.flagsInRange, Bool.and_eq_true, Bool.or_eq_true,
    Bool.not_eq_true', beq_iff_eq, decide_eq_true_eq]
  tauto

/-! ### Which opcodes are assigned (R148, R149) -/

theorem Op.code_eq_of_ofCode {b : Byte} {o : Op} (h : Op.ofCode b = some o) : o.code = b := by
  simpa using List.find?_some h

theorem Op.ofCode_eq_none_iff (b : Byte) : Op.ofCode b = none ↔ b ∉ Op.all.map Op.code := by
  simp [Op.ofCode, List.find?_eq_none]

/-- The reserved opcodes, range by range, are those that no command has (R149). -/
theorem Op.ofCode_eq_none_iff_reserved : ∀ b : Byte, Op.ofCode b = none ↔
    b = 0x00#8 ∨ (0x03#8 ≤ b ∧ b ≤ 0x0F#8) ∨ (0x16#8 ≤ b ∧ b ≤ 0x1F#8) ∨ (0x22#8 ≤ b ∧ b ≤ 0x2F#8) ∨
    (0x33#8 ≤ b ∧ b ≤ 0x3F#8) ∨ (0x47#8 ≤ b ∧ b ≤ 0x4F#8) ∨ (0x52#8 ≤ b ∧ b ≤ 0x5F#8) ∨ 0x63#8 ≤ b := by
  intro b
  rw [Op.ofCode_eq_none_iff]
  revert b
  decide

/-- The decoder accepts a header exactly when it is well formed (R144, R146). -/
theorem decodeHeader_isSome (h : Word) : (decodeHeader h).isSome = Header.wellFormed h := by
  unfold decodeHeader Header.wellFormed
  cases ho : Op.ofCode (Header.opc h) with
  | none => rfl
  | some o =>
    have hmask := o.and_mask_eq_fixed_iff (Op.code_eq_of_ofCode ho).symm
    rw [Bool.eq_iff_iff, ← hmask, Option.isSome_ite]

theorem decodeHeader_eq_none_iff (h : Word) : decodeHeader h = none ↔ Header.wellFormed h = false := by
  rw [← decodeHeader_isSome, Option.isSome_eq_false_iff, Option.isNone_iff_eq_none]

theorem decode_of_decodeHeader_eq_none {bs rest : List Byte} {h : Word} (hw : takeWord bs = some (h, rest))
    (hd : decodeHeader h = none) : decode bs = .error .illegal := by simp [decode, hw, hd]

end Sys2Proof

namespace Sys2Proof.Machine

/-! ### Fetching (R102, R181) -/

/-- The first word of a byte string read from MEM is the word at its address. -/
theorem State.takeWord_readBytes (s : State) (a n : Nat) :
    takeWord (s.readBytes a (n + 4)) = some (s.word a, s.readBytes (a + 4) n) := rfl

/-- Where the header lies in MEM, the fetch reads it first. -/
theorem State.takeWord_window {s : State} (hpc : s.cpc.toNat + 4 ≤ Config.memSize) :
    takeWord s.window = some (s.word s.cpc.toNat,
      s.readBytes (s.cpc.toNat + 4) (min maxBytes (Config.memSize - s.cpc.toNat) - 4)) := by
  have hlen : 4 ≤ min maxBytes (Config.memSize - s.cpc.toNat) := le_min (by decide) (by omega)
  rw [State.window, ← State.takeWord_readBytes, Nat.sub_add_cancel hlen]

theorem State.fetch_of_illFormed {s : State} (hpc : s.cpc.toNat + 4 ≤ Config.memSize)
    (hill : Header.wellFormed (s.word s.cpc.toNat) = false) : s.fetch = .error .illegal := by
  have hd := decode_of_decodeHeader_eq_none (State.takeWord_window hpc) ((decodeHeader_eq_none_iff _).2 hill)
  simp [State.fetch, hd, fetchErr]

/-- With the host quiet, a fetch that raises an error makes the step the trap entry (R181, R466). -/
theorem step_of_fetch_error {s : State} {e : Err} (hhost : s.host = []) (hbusy : s.busy = true)
    (hf : s.fetch = .error e) : step s = .next (s.trap e) := by simp [step, turn, hhost, hbusy, hf]

/-- Settles O4: the mask comparison is the checks of R144, the reserved ranges are what the opcode map leaves out, and
the fetch looks at the header before any operand word. -/
theorem illFormedHeaderIsIllegal : Obligations.IllFormedHeaderIsIllegal := by
  unfold Obligations.IllFormedHeaderIsIllegal
  exact ⟨decodeHeader_isSome, Op.ofCode_eq_none_iff_reserved, fun _ hhost hbusy hpc hill =>
    step_of_fetch_error hhost hbusy (State.fetch_of_illFormed hpc hill)⟩

end Sys2Proof.Machine

/-!
PROOFS. The block unit (41_block_unit.md): the words of its register commands, the doubler byte by byte and as a number
(R200, R201), and that BCLR, BMOV, BXOR, BDBL and BLD write their register, move CPC and do no more (R205 to R209).
-/

namespace Sys2Proof

/-! ### Headers that name registers (R141, R143) -/

/-- A header of two registers is its opcode byte and the two register numbers, each shifted to its field. -/
theorem headerWord_regs (opc : Byte) (rd rs : BReg) : headerWord opc rd.field rs.field 0#8 =
    (opc ++ 0#24) ||| (rd.bits.setWidth 32 <<< 20) ||| (rs.bits.setWidth 32 <<< 16) := by
  apply BitVec.eq_of_getLsbD_eq
  intro j hj
  change (opc ++ (0#2 ++ rd.bits) ++ (0#2 ++ rs.bits) ++ 0#8 ++ 0#8).getLsbD j =
    ((opc ++ 0#24) ||| (rd.bits.setWidth (8 + 24) <<< 20) ||| (rs.bits.setWidth (8 + 24) <<< 16)).getLsbD j
  simp only [BitVec.getLsbD_append, BitVec.getLsbD_or, BitVec.getLsbD_shiftLeft, BitVec.getLsbD_zero,
    BitVec.getLsbD_setWidth]
  grind

/-- A header of a destination register alone. -/
theorem headerWord_rd (opc : Byte) (rd : BReg) : headerWord opc rd.field 0#4 0#8 =
    (opc ++ 0#24) ||| (rd.bits.setWidth 32 <<< 20) := (headerWord_regs opc rd .b0).trans BitVec.or_zero

end Sys2Proof

namespace Sys2Proof.Machine

/-! ### The byte view of operations on blocks (R12, R13) -/

/-- Bit `j` of byte `i` of a block. -/
theorem blockByte_getLsbD (b : Block) (i j : Nat) :
    (blockByte b i).getLsbD j = (decide (j < 8) && b.getLsbD (8 * (15 - i) + j)) :=
  BitVec.getLsbD_extractLsb' ..

@[simp] theorem blockByte_xor (b c : Block) (i : Nat) : blockByte (b ^^^ c) i = blockByte b i ^^^ blockByte c i :=
  BitVec.extractLsb'_xor

/-- In bytes 0 to 14 of a block shifted left by one, the top bit of the next byte comes in. -/
theorem blockByte_shiftLeft_one (b : Block) {i : Nat} (hi : i < 15) :
    blockByte (b <<< 1) i = (blockByte b i <<< 1) ||| (blockByte b (i + 1) >>> 7) := by
  apply BitVec.eq_of_getLsbD_eq
  intro j hj
  simp only [BitVec.getLsbD_or, BitVec.getLsbD_shiftLeft, BitVec.getLsbD_ushiftRight, blockByte_getLsbD]
  cases j with
  | zero =>
    have hin : 8 * (15 - i) < 128 := by omega
    have hpos : 15 - i ≠ 0 := by omega
    have hnext : 8 * (15 - i) - 1 = 8 * (15 - (i + 1)) + 7 := by omega
    simp [hin, hpos, hnext]
  | succ j =>
    have hin : 8 * (15 - i) + (j + 1) < 128 := by omega
    have hj' : j < 8 := by omega
    have hnext : ¬7 + (j + 1) < 8 := by omega
    simp only [← Nat.add_assoc] at hin hnext ⊢
    simp [hj, hj', hin, hnext]

/-- In byte 15 of a block shifted left by one, a zero comes in. -/
theorem blockByte_shiftLeft_one_last (b : Block) : blockByte (b <<< 1) 15 = blockByte b 15 <<< 1 := by
  apply BitVec.eq_of_getLsbD_eq
  intro j hj
  simp only [BitVec.getLsbD_shiftLeft, blockByte_getLsbD]
  cases j with
  | zero => simp
  | succ j =>
    have hj' : j < 8 := by omega
    have hin : j + 1 < 128 := by omega
    simp [hj, hj', hin]

/-- The top bit of byte 0 is bit 127. -/
theorem blockByte_zero_ushiftRight (b : Block) : blockByte b 0 >>> 7 = 1#8 ↔ b.getLsbD 127 = true := by
  have hbit : blockByte b 0 >>> 7 = (BitVec.ofBool (b.getLsbD 127)).setWidth 8 := by
    apply BitVec.eq_of_getLsbD_eq
    intro j hj
    rw [BitVec.getLsbD_ushiftRight, blockByte_getLsbD, BitVec.getLsbD_setWidth, BitVec.getLsbD_ofBool]
    cases j with
    | zero => simp
    | succ j =>
      have hout : ¬7 + (j + 1) < 8 := by omega
      simp [hout]
  rw [hbit]
  cases b.getLsbD 127 <;> decide

/-! ### The doubler (R200, R201) -/

/-- Bytes 0 to 14 of the double are a pure shift: the reduction constant lies in byte 15. -/
theorem blockByte_dbl (b : Block) {i : Nat} (hi : i < 15) :
    blockByte (dbl b) i = (blockByte b i <<< 1) ||| (blockByte b (i + 1) >>> 7) := by
  have hconst : blockByte (if b.getLsbD 127 then 0x87#128 else 0#128) i = 0#8 := by
    split
    · revert i; decide
    · exact BitVec.extractLsb'_zero ..
  rw [dbl, blockByte_xor, hconst, BitVec.xor_zero, blockByte_shiftLeft_one b hi]

/-- Byte 15 of the double is shifted and takes the reduction constant. -/
theorem blockByte_dbl_last (b : Block) : blockByte (dbl b) 15 =
    (blockByte b 15 <<< 1) ^^^ (if blockByte b 0 >>> 7 = 1#8 then 0x87#8 else 0#8) := by
  simp only [dbl, blockByte_xor, blockByte_shiftLeft_one_last, blockByte_zero_ushiftRight]
  split <;> rfl

/-- The doubler as a function of numbers (R200). -/
theorem dbl_toNat (b : Block) :
    (dbl b).toNat = (2 * b.toNat % 2 ^ 128) ^^^ (if 2 ^ 127 ≤ b.toNat then 0x87 else 0) := by
  have htop : b.getLsbD 127 = decide (2 ^ 127 ≤ b.toNat) := BitVec.msb_eq_decide b
  simp only [dbl, BitVec.toNat_xor, BitVec.toNat_shiftLeft, Nat.shiftLeft_eq, htop, decide_eq_true_eq, Nat.mul_comm]
  split <;> rfl

/-- Settles O18: byte by byte the doubler is a left shift, and the constant reaches byte 15 only. -/
theorem doublerBytewise : Obligations.DoublerBytewise := by
  unfold Obligations.DoublerBytewise
  exact fun b => ⟨fun _ hi => blockByte_dbl b hi, blockByte_dbl_last b⟩

/-! ### Commands that only write a register (R204) -/

/-- A command whose plan is to write one register writes it and moves CPC past itself, and changes nothing else. -/
theorem exec_of_planReg {i : Instr} {s : State} {rd : BReg} {v : Block} (hp : planOf i s = planReg s rd v)
    (hc : s.corrupt = false) :
    ∃ b : BRegs, exec i s = .next { s with br := b, cpc := s.cpc + BitVec.ofNat 32 (Instr.moves i) } ∧
      b.get rd = v ∧ ∀ r, r ≠ rd → b.get r = s.getBr r := by
  refine ⟨s.br.set rd v, ?_, BRegs.get_set_same .., fun r hr => BRegs.get_set_other s.br rd r v hr⟩
  rw [exec_eq_runPlan, hp, planReg, gated_ok hc, runPlan_granted (State.verdict_zero s), finish_eq_none rfl]
  simp [State.setBr]

/-- BLD of a legal range writes its register from MEM (R209). -/
theorem planBld_of_legal (rd : BReg) {addr : Word} (s : State) (h : addr.toNat + 16 ≤ Config.memSize) :
    planBld rd addr s = planReg s rd (s.blockAt addr.toNat) := by
  simp [planBld, planReg, (legal_iff _ _).2 h]

/-- BLD of a range outside MEM raises ADDR (R209, R102). -/
theorem exec_bld_outside (rd : BReg) {addr : Word} {s : State} (hc : s.corrupt = false)
    (h : Config.memSize < addr.toNat + 16) : exec (.bld rd addr) s = .next (s.trap .addr) := by
  have hill : legal addr.toNat 16 = false := by simpa [legal] using h
  rw [exec_eq_runPlan, planOf, planBld, gated_ok hc, hill]
  rfl

/-- Byte `i` of a block of MEM is the byte `i` past its address (R104). -/
theorem blockByte_blockAt (s : State) (a : Nat) {i : Nat} (hi : i < 16) :
    blockByte (s.blockAt a) i = s.byteAt (a + i) := by
  have hlen : i < (s.readBytes a 16).length := by rwa [State.readBytes_length]
  rw [State.blockAt, blockByte_blockOf _ _ hi, List.getD_eq_getElem _ _ hlen, State.readBytes_getElem]

/-! ### The commands -/

/-- Settles O12: the word is the header of a destination register, and BCLR only writes zero to it. -/
theorem bclrClearsRegister : Obligations.BclrClearsRegister := by
  unfold Obligations.BclrClearsRegister
  exact fun rd => ⟨congrArg ([·]) (headerWord_rd 0x10#8 rd), fun _ hc => exec_of_planReg rfl hc⟩

/-- Settles O13: the word is the header of two registers, and BMOV only writes the old value of `rs`. -/
theorem bmovCopiesRegister : Obligations.BmovCopiesRegister := by
  unfold Obligations.BmovCopiesRegister
  exact fun rd rs => ⟨congrArg ([·]) (headerWord_regs 0x11#8 rd rs), fun _ hc => exec_of_planReg rfl hc⟩

/-- Settles O14: XOR of blocks is XOR byte by byte, and a block's XOR with itself is zero. -/
theorem bxorXorsRegisters : Obligations.BxorXorsRegisters := by
  unfold Obligations.BxorXorsRegisters
  refine fun rd rs => ⟨congrArg ([·]) (headerWord_regs 0x12#8 rd rs), fun s hc => ?_⟩
  obtain ⟨b, hexec, hget, hframe⟩ := exec_of_planReg (i := .bxor rd rs) rfl hc
  refine ⟨b, hexec, fun i _ => ?_, fun h => ?_, hframe⟩
  · rw [hget, blockByte_xor]
  · rw [hget, h, BitVec.xor_self]

/-- Settles O15: `dbl` as a function of numbers. -/
theorem bdblDoublesRegister : Obligations.BdblDoublesRegister := by
  unfold Obligations.BdblDoublesRegister
  refine fun rd rs => ⟨congrArg ([·]) (headerWord_regs 0x13#8 rd rs), fun s hc => ?_⟩
  obtain ⟨b, hexec, hget, hframe⟩ := exec_of_planReg (i := .bdbl rd rs) rfl hc
  exact ⟨b, hexec, by rw [hget, dbl_toNat], hframe⟩

/-- Settles O16: within MEM, BLD is a command that only writes its register. -/
theorem bldLoadsBlock : Obligations.BldLoadsBlock := by
  unfold Obligations.BldLoadsBlock
  refine fun rd addr => ⟨congrArg ([·, addr]) (headerWord_rd 0x14#8 rd), fun s hc =>
    ⟨fun hin => ?_, exec_bld_outside rd hc⟩⟩
  obtain ⟨b, hexec, hget, hframe⟩ := exec_of_planReg (i := .bld rd addr) (planBld_of_legal rd s hin) hc
  exact ⟨b, hexec, fun i hi => by rw [hget, blockByte_blockAt s addr.toNat hi], hframe⟩

end Sys2Proof.Machine

/-!
PROOFS. The CMAC and PMAC engines against their closed forms (42_cmac.md R233, R239; 43_pmac.md R264, R266, R268, R271):
after a reset and any updates the accumulator depends on the concatenated message alone.
-/

namespace Sys2Proof.Machine

/-! ### Bytes placed in a block (R12, R13) -/

@[simp] theorem blockOf_nil : blockOf [] = 0#128 := rfl

@[simp] theorem placeAt_zero (x : Bytes) : placeAt 0 x = blockOf x := rfl

/-- A string after another one in a block is the first one's block XOR the second one put in place. -/
theorem blockOf_xor_placeAt (x y : Bytes) : blockOf x ^^^ placeAt x.length y = blockOf (x ++ y) := by
  refine block_ext fun i hi => ?_
  rw [placeAt, blockByte_xor, blockByte_blockOf _ _ hi, blockByte_blockOf _ _ hi, blockByte_blockOf _ _ hi]
  rcases lt_or_ge i x.length with h | h
  · simp [List.getElem?_append_left, h]
  · simp [List.getElem?_append_right, h]

/-- An overlay that reaches the block's end leaves the bytes before it, then its own. -/
theorem overlay_of_full (b : Block) {pos : Nat} {x : Bytes} (h : pos + x.length = 16) :
    overlay b pos x = blockOf ((blockBytes b).take pos ++ x) := by
  rw [overlay, h, List.drop_of_length_le (by simp), List.append_nil]

/-- The bytes up to the end of an overlay are those before it, then its own. -/
theorem take_blockBytes_overlay (b : Block) {pos : Nat} {x : Bytes} (h : pos + x.length ≤ 16) :
    (blockBytes (overlay b pos x)).take (pos + x.length) = (blockBytes b).take pos ++ x := by
  have hlen : ((blockBytes b).take pos ++ x).length = pos + x.length := by simp; omega
  have hall : ((blockBytes b).take pos ++ x ++ (blockBytes b).drop (pos + x.length)).length = 16 := by simp; omega
  rw [overlay, blockBytes_blockOf _ hall, ← hlen, List.take_left]

end Sys2Proof.Machine

namespace Sys2Proof.Spec

open Sys2Proof.Machine

/-! ### The absorbed blocks and the pending bytes of a message (R233) -/

theorem absorbedOf_eq_of_bounds {n q : Nat} (hlo : 16 * q < n) (hhi : n ≤ 16 * q + 16) : absorbedOf n = q := by
  rw [absorbedOf, if_neg (by omega)]
  omega

theorem absorbedOf_bounds (n : Nat) :
    16 * absorbedOf n ≤ n ∧ n ≤ 16 * absorbedOf n + 16 ∧ (n ≠ 0 → 16 * absorbedOf n < n) := by
  unfold absorbedOf
  split <;> omega

/-- `R` of R233: the bytes after the absorbed blocks. -/
def pending (m : Bytes) : Bytes := m.drop (16 * absorbedOf m.length)

theorem pending_length (m : Bytes) : (pending m).length = m.length - 16 * absorbedOf m.length := by simp [pending]

theorem pending_length_le (m : Bytes) : (pending m).length ≤ 16 := by
  have hb := absorbedOf_bounds m.length
  rw [pending_length]
  omega

/-- `left` of R234 and R266: the bytes that still fit beside the pending ones. -/
def room (m : Bytes) : Nat := 16 - (pending m).length

/-- The last part of a message is a full block exactly when 16 bytes are pending (R239, R271). -/
theorem nonempty_and_pending_full_iff (m : Bytes) :
    (m.length ≠ 0 ∧ (pending m).length = 16) ↔ (pending m).length = 16 := by
  rw [pending_length]
  omega

/-! ### What appending to a message does to them (R234, R266) -/

/-- What is appended stands after the pending bytes. -/
theorem drop_append_eq_pending_append (m d : Bytes) :
    (m ++ d).drop (16 * absorbedOf m.length) = pending m ++ d :=
  List.drop_append_of_le_length (absorbedOf_bounds _).1

/-- Bytes that fit beside the pending ones cause no block to be absorbed. -/
theorem absorbedOf_append_of_fits {m d : Bytes} (h : d.length ≤ room m) :
    absorbedOf (m ++ d).length = absorbedOf m.length := by
  rw [room, pending_length] at h
  rw [List.length_append]
  unfold absorbedOf at h ⊢
  split_ifs at h ⊢ <;> omega

theorem pending_append_of_fits {m d : Bytes} (h : d.length ≤ room m) : pending (m ++ d) = pending m ++ d := by
  rw [pending, absorbedOf_append_of_fits h, drop_append_eq_pending_append]

/-- Once the pending block is completed, the rest of the input is the rest of the message. -/
theorem drop_append_succ (m d : Bytes) :
    (m ++ d).drop (16 * (absorbedOf m.length + 1)) = d.drop (room m) := by
  rw [Nat.mul_add, ← List.drop_drop, drop_append_eq_pending_append, List.drop_append,
    List.drop_of_length_le (pending_length_le m), List.nil_append, Nat.mul_one, room]

/-- The block that the input completes. -/
theorem messageBlock_append_succ (m d : Bytes) :
    messageBlock (m ++ d) (absorbedOf m.length + 1) = blockOf (pending m ++ d.take (room m)) := by
  rw [messageBlock, Nat.add_sub_cancel, drop_append_eq_pending_append, List.take_append,
    List.take_of_length_le (pending_length_le m), room]

/-- Bytes that do not fit complete the pending block, and all full blocks after it but the last are absorbed. -/
theorem absorbedOf_append_of_overflows {m d : Bytes} (h : room m < d.length) :
    absorbedOf (m ++ d).length = absorbedOf m.length + 1 + ((d.drop (room m)).length - 1) / 16 := by
  have hb := absorbedOf_bounds m.length
  rw [room, pending_length] at h ⊢
  rw [List.length_append, List.length_drop]
  exact absorbedOf_eq_of_bounds (by omega) (by omega)

/-- The bytes left pending by an input that does not fit are the end of that input. -/
theorem pending_append_of_overflows {m d : Bytes} (h : room m < d.length) :
    pending (m ++ d) = (d.drop (room m)).drop (16 * (((d.drop (room m)).length - 1) / 16)) := by
  rw [pending, absorbedOf_append_of_overflows h, Nat.mul_add, ← List.drop_drop, drop_append_succ]

/-- Blocks that lie in a prefix are the prefix's. -/
theorem messageBlock_append {m : Bytes} {j : Nat} (d : Bytes) (h : 16 * (j + 1) ≤ m.length) :
    messageBlock (m ++ d) (j + 1) = messageBlock m (j + 1) := by
  have hdrop : (m ++ d).drop (16 * j) = m.drop (16 * j) ++ d := List.drop_append_of_le_length (by omega)
  simp only [messageBlock, Nat.add_sub_cancel]
  rw [hdrop, List.take_append_of_le_length (by rw [List.length_drop]; omega)]

theorem chain_append (e : Block → Block) {m : Bytes} (d : Bytes) {j : Nat} (h : 16 * j ≤ m.length) :
    chain e (m ++ d) j = chain e m j := by
  induction j with
  | zero => rfl
  | succ j ih => rw [chain, chain, ih (by omega), messageBlock_append d h]

@[simp] theorem checksumOf_succ (e : Block → Block) (k : Keys) (m : Bytes) (j : Nat) :
    checksumOf e k m (j + 1) = checksumOf e k m j ^^^ e (messageBlock m (j + 1) ^^^ offsetOf k (j + 1)) := rfl

theorem checksumOf_append (e : Block → Block) (k : Keys) {m : Bytes} (d : Bytes) {j : Nat} (h : 16 * j ≤ m.length) :
    checksumOf e k (m ++ d) j = checksumOf e k m j := by
  induction j with
  | zero => rfl
  | succ j ih => rw [checksumOf_succ, checksumOf_succ, ih (by omega), messageBlock_append d h]

/-! ### CMAC (R233, R239) -/

/-- The loop of R234 over the blocks of a message from block `j` on continues the chain. -/
theorem cmacChain_chain (e : Block → Block) (m : Bytes) (n j : Nat) :
    cmacChain e n (chain e m j) (m.drop (16 * j)) = chain e m (j + n) := by
  induction n generalizing j with
  | zero => rfl
  | succ n ih =>
    rw [cmacChain, List.drop_drop, ← Nat.mul_succ]
    exact (ih (j + 1)).trans (congrArg (chain e m) (Nat.add_right_comm j 1 n))

/-- The accumulator that R233 gives after the message `m`. -/
def cmacAfter (e : Block → Block) (a : Acc) (m : Bytes) : Acc :=
  { a with
    buf := chain e m (absorbedOf m.length) ^^^ blockOf (pending m)
    pos := (pending m).length
    fin := false
    dig := 0#128 }

theorem cmacReset_eq_cmacAfter (e : Block → Block) (a : Acc) : cmacReset a = cmacAfter e a [] := by
  simp [cmacReset, cmacAfter, pending, absorbedOf, chain]

/-- An update appends to the message (R235). -/
theorem cmacUpdate_cmacAfter (e : Block → Block) (a : Acc) (m d : Bytes) :
    cmacUpdate e (cmacAfter e a m) d = cmacAfter e a (m ++ d) := by
  have hlo := (absorbedOf_bounds m.length).1
  have hpos : (cmacAfter e a m).pos = (pending m).length := rfl
  unfold cmacUpdate
  rw [hpos, ← room]
  rcases le_or_gt d.length (room m) with h | h
  · rw [if_pos h]
    simp only [cmacAfter]
    rw [absorbedOf_append_of_fits h, chain_append e d hlo, pending_append_of_fits h, BitVec.xor_assoc,
      blockOf_xor_placeAt, List.length_append (as := pending m)]
  · have hblock : e (chain e m (absorbedOf m.length) ^^^ blockOf (pending m) ^^^
        placeAt (pending m).length (d.take (room m))) = chain e (m ++ d) (absorbedOf m.length + 1) := by
      rw [BitVec.xor_assoc, blockOf_xor_placeAt, chain, chain_append e d hlo, messageBlock_append_succ]
    rw [if_neg (Nat.not_le.2 h)]
    simp only [cmacAfter]
    rw [hblock, absorbedOf_append_of_overflows h, pending_append_of_overflows h, placeAt_zero,
      ← drop_append_succ, cmacChain_chain]

theorem foldl_cmacUpdate_cmacAfter (e : Block → Block) (a : Acc) (m : Bytes) (parts : List Bytes) :
    parts.foldl (cmacUpdate e) (cmacAfter e a m) = cmacAfter e a (m ++ parts.flatten) := by
  induction parts generalizing m with
  | nil => simp
  | cons d parts ih =>
    rw [List.foldl_cons, cmacUpdate_cmacAfter, ih, List.flatten_cons, List.append_assoc]

/-- Settles O26: a reset leaves the closed form of the empty message, and an update appends to its message. -/
theorem cmacBufferClosedForm : Obligations.CmacBufferClosedForm := by
  intro e a parts
  rw [cmacReset_eq_cmacAfter e, foldl_cmacUpdate_cmacAfter, List.nil_append]
  exact ⟨pending_length _, rfl, rfl, rfl, rfl, rfl, rfl⟩

theorem cmacOf_eq_pending (e : Block → Block) (k1 k2 : Block) (m : Bytes) :
    cmacOf e k1 k2 m = e (chain e m (absorbedOf m.length) ^^^
      if (pending m).length = 16 then blockOf (pending m) ^^^ k1 else blockOf (pending m ++ [0x80#8]) ^^^ k2) :=
  congrArg (fun star => e (chain e m (absorbedOf m.length) ^^^ star))
    (if_congr (nonempty_and_pending_full_iff m) rfl rfl)

/-- Finish encrypts the last block of R239. -/
theorem enc_cmacLast_cmacAfter (e : Block → Block) (k : Keys) (a : Acc) (m : Bytes) :
    e (cmacLast k (cmacAfter e a m)) = cmacOf e k.k1 k.k2 m := by
  rw [cmacOf_eq_pending, cmacLast]
  rcases (pending_length_le m).lt_or_eq with h | h
  · rw [if_neg h.ne, if_pos (show (cmacAfter e a m).pos < 16 from h), ← blockOf_xor_placeAt]
    simp only [cmacAfter]
    ac_rfl
  · rw [if_pos h, if_neg (show ¬(cmacAfter e a m).pos < 16 from h.not_lt), cmacAfter, BitVec.xor_assoc]

/-! ### PMAC (R264, R266, R268, R271) -/

/-- PCNT, OFF and SUM after `j` blocks of the message `m` (R264, R268), with no finish since the reset. -/
structure PmacAbsorbed (e : Block → Block) (k : Keys) (m : Bytes) (j : Nat) (a : Acc) : Prop where
  pcnt : a.pcnt = j
  off : a.off = offsetOf k j
  sum : a.sum = checksumOf e k m j
  fin : a.fin = false

/-- Absorbing the next block of the message (R265). -/
theorem PmacAbsorbed.absorb_block {e : Block → Block} {k : Keys} {m : Bytes} {j : Nat} {a : Acc}
    (h : PmacAbsorbed e k m j a) (hbuf : a.buf = messageBlock m (j + 1)) :
    PmacAbsorbed e k m (j + 1) (pmacBlock e k a) where
  pcnt := congrArg (· + 1) h.pcnt
  off := by simp only [pmacBlock, h.pcnt, h.off]; rfl
  sum := by simp only [pmacBlock, h.pcnt, h.off, h.sum, hbuf]; rfl
  fin := h.fin

/-- The loop of R266 over the blocks of a message from block `j` on. -/
theorem PmacAbsorbed.absorb_blocks {e : Block → Block} {k : Keys} {m : Bytes} (n : Nat) {j : Nat} {a : Acc}
    (h : PmacAbsorbed e k m j a) : PmacAbsorbed e k m (j + n) (pmacBlocks e k n a (m.drop (16 * j))) := by
  induction n generalizing j a with
  | zero => exact h
  | succ n ih =>
    have hnext : PmacAbsorbed e k m j { a with buf := blockOf ((m.drop (16 * j)).take 16), pos := 16 } :=
      ⟨h.pcnt, h.off, h.sum, h.fin⟩
    rw [pmacBlocks, List.drop_drop, ← Nat.mul_succ, ← Nat.succ_add_eq_add_succ]
    exact ih (hnext.absorb_block rfl)

/-- What R264, R266 and R268 say of the accumulator after the message `m`; BUF from POS on is left open. -/
structure PmacAfter (e : Block → Block) (k : Keys) (m : Bytes) (a : Acc) : Prop where
  absorbed : PmacAbsorbed e k m (absorbedOf m.length) a
  pos : a.pos = (pending m).length
  bytes : (blockBytes a.buf).take a.pos = pending m

theorem pmacAfter_pmacReset (e : Block → Block) (k : Keys) (a : Acc) : PmacAfter e k [] (pmacReset a) :=
  ⟨⟨rfl, rfl, rfl, rfl⟩, rfl, rfl⟩

/-- The pending bytes of a message put into BUF beside the bytes of it that are there. -/
theorem PmacAbsorbed.buffer_pending {e : Block → Block} {k : Keys} {m x : Bytes} {a : Acc} {p n : Nat}
    (h : PmacAbsorbed e k m (absorbedOf m.length) a) (hpend : (blockBytes a.buf).take p ++ x = pending m)
    (hlen : p + x.length = (pending m).length) (hn : n = p + x.length) :
    PmacAfter e k m { a with buf := overlay a.buf p x, pos := n } where
  absorbed := ⟨h.pcnt, h.off, h.sum, h.fin⟩
  pos := hn.trans hlen
  bytes := by rw [hn, take_blockBytes_overlay _ (hlen ▸ pending_length_le m), hpend]

/-- An update appends to the message (R266). -/
theorem PmacAfter.update_append {e : Block → Block} {k : Keys} {m : Bytes} {a : Acc} (h : PmacAfter e k m a)
    (d : Bytes) : PmacAfter e k (m ++ d) (pmacUpdate e k a d) := by
  obtain ⟨⟨hpcnt, hoff, hsum, hfin⟩, hpos, hbytes⟩ := h
  rw [hpos] at hbytes
  have hsum' := hsum.trans (checksumOf_append e k d (absorbedOf_bounds m.length).1).symm
  unfold pmacUpdate
  rw [hpos, ← room]
  rcases le_or_gt d.length (room m) with hd | hd
  · have habs : PmacAbsorbed e k (m ++ d) (absorbedOf (m ++ d).length) a :=
      absorbedOf_append_of_fits hd ▸ ⟨hpcnt, hoff, hsum', hfin⟩
    have hpend := pending_append_of_fits hd
    rw [if_pos hd]
    exact habs.buffer_pending (by rw [hbytes, hpend]) (by rw [hpend, List.length_append]) rfl
  · have hfull : overlay a.buf (pending m).length (d.take (room m)) =
        messageBlock (m ++ d) (absorbedOf m.length + 1) := by
      have hle := pending_length_le m
      rw [overlay_of_full _ (by rw [List.length_take, min_eq_left hd.le, room]; omega), hbytes,
        messageBlock_append_succ]
    have hone : PmacAbsorbed e k (m ++ d) (absorbedOf m.length)
        { a with buf := overlay a.buf (pending m).length (d.take (room m)), pos := 16 } :=
      ⟨hpcnt, hoff, hsum', hfin⟩
    have hall := (hone.absorb_block hfull).absorb_blocks (((d.drop (room m)).length - 1) / 16)
    rw [drop_append_succ, ← absorbedOf_append_of_overflows hd] at hall
    have hpend := pending_append_of_overflows hd
    rw [if_neg (Nat.not_le.2 hd)]
    exact hall.buffer_pending hpend.symm (by rw [hpend, Nat.zero_add]) (Nat.zero_add _).symm

theorem pmacOf_eq_pending (e : Block → Block) (k : Keys) (m : Bytes) :
    pmacOf e k m = if (pending m).length = 16 then
        e (checksumOf e k m (absorbedOf m.length) ^^^ blockOf (pending m) ^^^ k.linv)
      else e (checksumOf e k m (absorbedOf m.length) ^^^ blockOf (pending m ++ [0x80#8])) :=
  if_congr (nonempty_and_pending_full_iff m) rfl rfl

/-- Finish encrypts the last block of R271. -/
theorem PmacAfter.enc_pmacLast {e : Block → Block} {k : Keys} {m : Bytes} {a : Acc} (h : PmacAfter e k m a) :
    e (pmacLast k a) = pmacOf e k m := by
  rw [pmacOf_eq_pending, pmacLast, h.pos, ← h.absorbed.sum]
  by_cases hfull : (pending m).length = 16
  · have hbuf : a.buf = blockOf (pending m) := by
      rw [← h.bytes, h.pos, hfull, List.take_of_length_le (by simp), blockOf_blockBytes]
    rw [if_pos hfull, if_pos hfull, hbuf]
  · rw [if_neg hfull, if_neg hfull, ← h.pos, h.bytes, padBlock]

/-! ### The one-shot MAC (R239, R271, R307) -/

/-- With no digest cached, finish encrypts the last block (R236, R267). -/
theorem macFinish_dig {k : Keys} {a : Acc} (e : Block → Block) (h : a.fin = false) :
    (macFinish e k a).dig = e (macLast k a) := by simp [macFinish, h]

theorem mac1_eq_cmacOf {k : Keys} (e : Block → Block) (m : Bytes) (hk : k.macmode = .cmac) :
    mac1 e k m = cmacOf e k.k1 k.k2 m := by
  have hupd : macUpdate e k (macReset k.macmode Acc.cleared) m = cmacAfter e Acc.cleared m := by
    simp only [macUpdate, macReset, hk]
    rw [cmacReset_eq_cmacAfter e, cmacUpdate_cmacAfter, List.nil_append]
  have hlast : ∀ a, macLast k a = cmacLast k a := fun a => by simp only [macLast, hk]
  rw [mac1, hupd, macFinish_dig e rfl, hlast, enc_cmacLast_cmacAfter e]

theorem mac1_eq_pmacOf {k : Keys} (e : Block → Block) (m : Bytes) (hk : k.macmode = .pmac) :
    mac1 e k m = pmacOf e k m := by
  have hupd : PmacAfter e k m (macUpdate e k (macReset k.macmode Acc.cleared) m) := by
    simp only [macUpdate, macReset, hk]
    exact (pmacAfter_pmacReset e k _).update_append m
  have hlast : ∀ a, macLast k a = pmacLast k a := fun a => by simp only [macLast, hk]
  rw [mac1, macFinish_dig e hupd.absorbed.fin, hlast, hupd.enc_pmacLast]

/-- Settles O28: one update from a reset, then finish. -/
theorem oneShotMacClosedForms : Obligations.OneShotMacClosedForms :=
  fun e _ m => ⟨mac1_eq_cmacOf e m, mac1_eq_pmacOf e m⟩

end Sys2Proof.Spec

/-!
PROOFS. PMAC's accumulator after any list of updates (43_pmac.md R264, R266, R268).
-/

namespace Sys2Proof.Spec

open Sys2Proof.Machine

/-- A list of updates appends its inputs to the message (R266). -/
theorem PmacAfter.foldl_update {e : Block → Block} {k : Keys} {m : Bytes} {a : Acc} (h : PmacAfter e k m a)
    (parts : List Bytes) : PmacAfter e k (m ++ parts.flatten) (parts.foldl (pmacUpdate e k) a) := by
  induction parts generalizing m a with
  | nil => rwa [List.flatten_nil, List.append_nil]
  | cons d parts ih =>
    rw [List.foldl_cons, List.flatten_cons, ← List.append_assoc]
    exact ih (h.update_append d)

/-- Settles O29: a reset is the state after the empty message, and each update appends its input to the message. -/
theorem pmacChecksumClosedForm : Obligations.PmacChecksumClosedForm := by
  unfold Obligations.PmacChecksumClosedForm
  intro e k a parts m q t
  have hafter : PmacAfter e k m t := (pmacAfter_pmacReset e k a).foldl_update parts
  obtain ⟨⟨hpcnt, hoff, hsum, -⟩, hpos, hbytes⟩ := hafter
  exact ⟨hpcnt, hoff, hsum, hpos.trans (pending_length m), hbytes⟩

end Sys2Proof.Spec

/-!
PROOFS. KCLEAR and MRESET (44_key_mac.md R299, R303, R304): two commands that make no provider request, so each either
fails a check or ends in its final state with CPC past it.
-/

namespace Sys2Proof.Machine

/-! ### Commands without a provider request (R181, R463) -/

/-- A command whose plan makes no request and raises no error ends in its final state, CPC moved past the command. -/
theorem exec_of_plan_plain {i : Instr} {s t : State} (hp : planOf i s = .go (Job.plain s t)) :
    exec i s = .next (t.advance (Instr.moves i)) := by
  rw [exec_eq_runPlan, hp, runPlan_granted (State.verdict_zero s), Job.finish]
  simp

/-- A command whose plan stops at a check is the trap entry. -/
theorem exec_of_plan_stop {i : Instr} {s t : State} {e : Err} (hp : planOf i s = .stop e t) :
    exec i s = .next (t.trap e) := by
  rw [exec_eq_runPlan, hp, runPlan]

/-! ### MRESET's check (R304) -/

theorem Keys.hasMac_iff (k : Keys) : k.hasMac = true ↔ k.macmode ≠ .none := by simp [Keys.hasMac]

/-- Under a MAC key MRESET only restarts the accumulator, whatever ACC holds. -/
theorem exec_mreset_of_hasMac {s : State} (hc : s.corrupt = false) (hm : s.keys.macmode ≠ .none) :
    exec .mreset s = .next (s.macIdle.advance 4) :=
  exec_of_plan_plain (by simp [planOf, planMreset, gated_ok hc, (Keys.hasMac_iff _).2 hm, State.macIdle])

/-- Without a MAC key MRESET raises NO_KEY. -/
theorem exec_mreset_of_noMac {s : State} (hc : s.corrupt = false) (hm : s.keys.macmode = .none) :
    exec .mreset s = .next (s.trap .noKey) :=
  exec_of_plan_stop (by simp [planOf, planMreset, gated_ok hc, Keys.hasMac, hm])

/-! ### The commands -/

/-- Settles O22: KCLEAR has no check, and its final state is the zeroized one with CORRUPT clear. -/
theorem kclearZeroizes : Obligations.KclearZeroizes := by
  unfold Obligations.KclearZeroizes
  exact ⟨rfl, fun s => exec_of_plan_plain (i := .kclear) (t := { s.zeroize with corrupt := false }) rfl⟩

/-- Settles O23: MACMODE chooses the engine whose reset is applied, and no MAC key is the command's one check. -/
theorem mresetStartsMessage : Obligations.MresetStartsMessage := by
  unfold Obligations.MresetStartsMessage
  refine ⟨rfl, fun s hc => ⟨fun hm => ?_, fun hm => ?_, exec_mreset_of_noMac hc⟩⟩
  · have hidle : s.macIdle = { s with acc := cmacReset s.acc } := by rw [State.macIdle, hm, macReset]
    rw [exec_mreset_of_hasMac hc (by simp [hm]), hidle]
    rfl
  · have hidle : s.macIdle = { s with acc := pmacReset s.acc } := by rw [State.macIdle, hm, macReset]
    rw [exec_mreset_of_hasMac hc (by simp [hm]), hidle]
    rfl

end Sys2Proof.Machine

/-!
PROOFS. IVQ (45_s2v_siv.md R347, R349): the synthetic IV under a mask that clears the top bits of bytes 8 and 12.
-/

namespace Sys2Proof.Machine

/-! ### The synthetic IV under its mask (R347) -/

@[simp] theorem blockByte_and (b c : Block) (i : Nat) : blockByte (b &&& c) i = blockByte b i &&& blockByte c i :=
  BitVec.extractLsb'_and

/-- The bytes of the mask that `ivq` keeps: all ones but for the top bits of bytes 8 and 12. -/
theorem blockByte_ivqMask : ∀ i, i < 16 → blockByte (~~~0x8000000080000000#128) i =
    if i = 8 ∨ i = 12 then 0x7F#8 else BitVec.allOnes 8 := by decide

theorem blockByte_ivq (v : Block) {i : Nat} (hi : i < 16) : blockByte (ivq v) i =
    if i = 8 ∨ i = 12 then blockByte v i &&& 0x7F#8 else blockByte v i := by
  rw [ivq, blockByte_and, blockByte_ivqMask i hi]
  split
  · rfl
  · exact BitVec.and_allOnes

/-- A mask applied twice is the mask applied once. -/
@[simp] theorem ivq_ivq (v : Block) : ivq (ivq v) = ivq v := by
  rw [ivq, ivq, BitVec.and_assoc, BitVec.and_self]

/-- Settles O35: IVQ only writes its register, and `ivq` is a mask whose bytes are known. -/
theorem ivqClearsTwoBits : Obligations.IvqClearsTwoBits := by
  unfold Obligations.IvqClearsTwoBits
  refine fun rd rs => ⟨congrArg ([·]) (headerWord_regs 0x43#8 rd rs), fun s hc => ?_⟩
  obtain ⟨b, hexec, hget, hframe⟩ := exec_of_planReg (i := .ivq rd rs) rfl hc
  refine ⟨b, hexec, fun i hi => ?_, ?_, hframe⟩
  · rw [hget, blockByte_ivq _ hi]
  · rw [hget, ivq_ivq]

end Sys2Proof.Machine

/-!
PROOFS. STINIT (47_stream.md R422): a command without a provider request, whose two checks never look at the stream.
-/

namespace Sys2Proof.Machine

open Sys2Proof.Spec

/-! ### STINIT's checks (R422, R463) -/

theorem hasBoth_iff_bothKeys (s : State) : s.keys.hasBoth = true ↔ BothKeys s := by
  simp [Keys.hasBoth, Keys.hasMac, Keys.ctrkey, BothKeys]

/-- STINIT of a prefix outside MEM raises ADDR. -/
theorem exec_stinit_outside (dir : Dir) {start : Word} {s : State} (hc : s.corrupt = false)
    (h : Config.memSize < start.toNat + Config.prefixLen) : exec (.stinit dir start) s = .next (s.trap .addr) := by
  have hill : legal start.toNat Config.prefixLen = false := by simpa [legal] using h
  exact exec_of_plan_stop (by rw [planOf, planStinit, gated_ok hc, hill]; rfl)

/-- With its prefix in MEM, STINIT without both keys raises NO_KEY. -/
theorem exec_stinit_noKey (dir : Dir) {start : Word} {s : State} (hc : s.corrupt = false)
    (hin : start.toNat + Config.prefixLen ≤ Config.memSize) (hk : ¬BothKeys s) :
    exec (.stinit dir start) s = .next (s.trap .noKey) := by
  have hno : s.keys.hasBoth = false := by rwa [← hasBoth_iff_bothKeys, Bool.not_eq_true] at hk
  exact exec_of_plan_stop (by rw [planOf, planStinit, gated_ok hc, (legal_iff _ _).2 hin, hno]; rfl)

/-- With its prefix in MEM and both keys loaded, STINIT replaces the stream, whatever it was, and moves CPC. -/
theorem exec_stinit_fresh (dir : Dir) {start : Word} {s : State} (hc : s.corrupt = false)
    (hin : start.toNat + Config.prefixLen ≤ Config.memSize) (hk : BothKeys s) :
    exec (.stinit dir start) s = .next (State.advance
      { s with stream := ⟨.active, dir, s.readBytes start.toNat Config.prefixLen, 0#32⟩ } 8) :=
  exec_of_plan_plain
    (by rw [planOf, planStinit, gated_ok hc, (legal_iff _ _).2 hin, (hasBoth_iff_bothKeys s).2 hk]; rfl)

/-- STINIT's header is its opcode byte and the direction in bit 8 (R151). -/
theorem header_stinit (dir : Dir) (start : Word) :
    (Instr.stinit dir start).header = 0x60000000#32 ||| (dir.bits.setWidth 32 <<< 8) := by
  change headerWord 0x60#8 0#4 0#4 (0#7 ++ dir.bits) = _
  cases dir <;> decide

/-- Settles O45: the outcome is fixed by the prefix's range and the keys, and the stream before it is not read. -/
theorem stinitSetsUpStream : Obligations.StinitSetsUpStream := by
  unfold Obligations.StinitSetsUpStream
  exact fun dir start => ⟨congrArg ([·, start]) (header_stinit dir start), fun _ hc =>
    ⟨exec_stinit_outside dir hc, fun hin => ⟨exec_stinit_noKey dir hc hin, exec_stinit_fresh dir hc hin⟩⟩⟩

end Sys2Proof.Machine

/-!
PROOFS. Errors raised at a check (60_exceptions.md R463): a step that records an error is the trap entry of R466, and
what it leaves besides is fixed by the error, but for INTEGRITY and PROVIDER_FAULT, which have rules of their own (R464,
R465).
-/

namespace Sys2Proof.Machine

/-! ### The error codes (R460) -/

theorem Err.code_injective : Function.Injective Err.code := by
  intro d e
  cases d <;> cases e <;> decide

@[simp] theorem Err.code_ne_zero (e : Err) : e.code ≠ 0#8 := by cases e <;> decide

/-! ### The state in which an error is recorded (R466) -/

@[simp] theorem State.moved_trap (s u : State) (e : Err) : s.moved (u.trap e) = u.trap e := by simp [State.moved]

/-- A job whose requests are granted leaves ERRCODE as it was, or comes to the trap entry with the error it raises. -/
theorem JobFacts.finish_errcode {i : Instr} {s : State} {j : Job} (hj : JobFacts i s j) (n : Nat) :
    (j.finish n).errcode = s.errcode ∨
      ∃ e, j.raises = some e ∧ j.finish n = (j.final.spend j.reqs).trap e := by
  cases hr : j.raises with
  | none => exact .inl (by simp [finish_eq_none hr, hj.errcode])
  | some e => exact .inr ⟨e, rfl, by rw [Job.finish, hr]⟩

/-- A command that records an error ends in the trap entry: at a check, with its job done, or where a request failed. -/
theorem exec_records {i : Instr} {s t : State} {e : Err} (hzero : s.errcode = 0#8) (hexec : exec i s = .next t)
    (hcode : t.errcode = e.code) :
    ∃ u, t = u.trap e ∧ (StopFacts i s e u ∨
      (∃ j, JobFacts i s j ∧ planOf i s = .go j ∧ j.raises = some e ∧ u = j.final.spend j.reqs) ∨
      e = .providerFault) := by
  have hne : e.code ≠ s.errcode := hzero ▸ e.code_ne_zero
  rcases exec_cases hexec with ⟨d, u, hstop, -, rfl⟩ | ⟨j, hj, hp, rfl⟩ | ⟨j, k, -, -, -, rfl⟩ | rfl
  · obtain rfl := Err.code_injective hcode
    exact ⟨u, rfl, .inl hstop⟩
  · rcases hj.finish_errcode (Instr.moves i) with hsame | ⟨d, hr, hfin⟩
    · exact absurd (hcode.symm.trans hsame) hne
    · obtain rfl := Err.code_injective ((congrArg State.errcode hfin).symm.trans hcode)
      exact ⟨_, hfin, .inr (.inl ⟨j, hj, hp, hr, rfl⟩)⟩
  · obtain rfl := Err.code_injective (a₁ := .providerFault) hcode
    exact ⟨_, rfl, .inr (.inr rfl)⟩
  · exact absurd hcode.symm hne

/-- KIMPORT raises INVALID_KEY at its length check, before any request (R300). -/
theorem reqs_of_raises_invalidKey {i : Instr} {s : State} {j : Job} (hp : planOf i s = .go j)
    (hi : importsKey i = true) (hr : j.raises = some .invalidKey) : j.reqs = 0 := by
  cases i with
  | kimport mode addr len =>
    have hgo := of_check hp
    dsimp only at hgo
    split at hgo
    · cases hgo; rfl
    · cases hgo; cases hr
  | _ => cases hi

/-! ### What an error leaves besides its record (R463) -/

/-- What a step from `s` to `t` that records `e` leaves: the trap record alone; besides it zeroize and CORRUPT = 0
(R300), or a terminated stream (R425); or `e` is one of the two errors that R463 does not speak of. -/
def RecordLeaves (s t : State) (e : Err) : Prop :=
  (t = s.trap e ∧ e ≠ .invalidKey ∧ e ≠ .counterOverflow) ∨
    (e = .invalidKey ∧ t = State.trap { s.zeroize with corrupt := false } e) ∨
    (e = .counterOverflow ∧ t = s.endStream.trap e) ∨ e = .integrity ∨ e = .providerFault

theorem exec_recordLeaves {i : Instr} {s t : State} {e : Err} (hzero : s.errcode = 0#8) (hexec : exec i s = .next t)
    (hcode : t.errcode = e.code) : RecordLeaves s t e := by
  obtain ⟨u, rfl, (⟨rfl, he⟩ | ⟨rfl, rfl, -⟩) | ⟨j, hj, hp, hr, rfl⟩ | rfl⟩ := exec_records hzero hexec hcode
  · have hkey : e ≠ .invalidKey := by rintro rfl; cases he
    have hctr : e ≠ .counterOverflow := by rintro rfl; cases he
    exact .inl ⟨rfl, hkey, hctr⟩
  · exact .inr (.inr (.inl ⟨rfl, rfl⟩))
  · rcases hj.raises with hnone | ⟨hint, -⟩ | ⟨hinv, hi, hfinal⟩
    · cases hnone.symm.trans hr
    · cases hint.symm.trans hr
      exact .inr (.inr (.inr (.inl rfl)))
    · cases hinv.symm.trans hr
      exact .inr (.inl ⟨rfl, by rw [reqs_of_raises_invalidKey hp hi hr, State.spend_zero, hfinal]⟩)
  · exact .inr (.inr (.inr (.inr rfl)))

/-- A fetch raises FETCH or ILLEGAL (R181). -/
theorem State.fetch_error {s : State} {e : Err} (hf : s.fetch = .error e) : e = .fetch ∨ e = .illegal := by
  unfold State.fetch at hf
  split at hf
  · cases hf
  next d _ =>
    cases hf
    cases d with
    | noHeader => exact .inl rfl
    | illegal => exact .inr rfl
    | noOperands => exact .inl rfl

/-- A quiet step of a run whose fetch gives a command is that command, its address noted. -/
theorem step_of_fetch_ok {s t : State} {i : Instr} (hhost : s.host = []) (hbusy : s.busy = true)
    (hf : s.fetch = .ok i) (hstep : step s = .next t) : ∃ u, exec i s = .next u ∧ t = s.moved u := by
  have hnoted : s.noted (exec i s) = .next t := by rwa [step, hhost, turn, if_pos hbusy, hf] at hstep
  cases hexec : exec i s with
  | next u =>
    rw [hexec] at hnoted
    cases hnoted
    exact ⟨u, rfl, rfl⟩
  | fault f => cases f
  | refused r => rw [hexec] at hnoted; cases hnoted

theorem step_recordLeaves {s t : State} {e : Err} (hhost : s.host = []) (hbusy : s.busy = true)
    (hzero : s.errcode = 0#8) (hstep : step s = .next t) (hcode : t.errcode = e.code) : RecordLeaves s t e := by
  cases hf : s.fetch with
  | error d =>
    cases (step_of_fetch_error hhost hbusy hf).symm.trans hstep
    obtain rfl := Err.code_injective hcode
    rcases State.fetch_error hf with rfl | rfl
    · exact .inl ⟨rfl, by decide, by decide⟩
    · exact .inl ⟨rfl, by decide, by decide⟩
  | ok i =>
    obtain ⟨u, hexec, rfl⟩ := step_of_fetch_ok hhost hbusy hf hstep
    rw [State.moved_errcode] at hcode
    obtain ⟨v, rfl, -⟩ := exec_records hzero hexec hcode
    rw [State.moved_trap]
    exact exec_recordLeaves hzero hexec hcode

/-! ### Opens of fewer bytes than a tag (R355, R402, R424) -/

/-- A plan whose check fails is no job. -/
theorem check_ne_go {b : Prop} [Decidable b] {s : State} {e : Err} {p : Plan} {j : Job} (hb : b) :
    (if b then .stop e s else p) ≠ .go j := by
  rw [if_pos hb]
  exact Plan.noConfusion

theorem planOf_sivopen_short {len : Word} (hlen : len.toNat < 16) (desc src dst : Word) (s : State) (j : Job) :
    planOf (.sivopen desc src len dst) s ≠ .go j := by
  intro hgo
  have hgo := of_gated hgo
  split at hgo
  · cases hgo
  · exact check_ne_go hlen (of_check (of_check (of_check (of_check hgo))))

theorem planOf_aeadopen_short {len : Word} (hlen : len.toNat < 16) (desc nonce nlen src dst : Word) (s : State)
    (j : Job) : planOf (.aeadopen desc nonce nlen src len dst) s ≠ .go j := by
  intro hgo
  have hgo := of_gated hgo
  split at hgo
  · cases hgo
  · exact check_ne_go hlen (of_check (of_check (of_check (of_check (of_check hgo)))))

theorem planOf_stopen_short {len : Word} (hlen : len.toNat < 16) (chunk : Chunk) (ad adlen src dst : Word) (s : State)
    (j : Job) : planOf (.stopen chunk ad adlen src len dst) s ≠ .go j := fun hgo =>
  check_ne_go hlen (of_check (of_check (of_check (of_check (of_check (of_check (of_gated hgo)))))))

/-- INTEGRITY of a command that comes to no job is raised at a check. -/
theorem exec_integrity_of_no_job {i : Instr} {s t : State} (hzero : s.errcode = 0#8)
    (hcode : t.errcode = Err.integrity.code) (hno : ∀ j, planOf i s ≠ .go j) (hexec : exec i s = .next t) :
    t = s.trap .integrity := by
  obtain ⟨u, rfl, (⟨rfl, -⟩ | ⟨-, he, -⟩) | ⟨j, -, hp, -⟩ | he⟩ := exec_records hzero hexec hcode
  · rfl
  · cases he
  · exact absurd hp (hno j)
  · cases he

/-! ### The errors of a step -/

/-- Settles O52: a step that records an error leaves what `RecordLeaves` says, and an open of fewer than 16 bytes never
comes to its job. -/
theorem checkErrorsChangeNothing : Obligations.CheckErrorsChangeNothing := by
  unfold Obligations.CheckErrorsChangeNothing
  refine ⟨fun s t e hhost hbusy hzero hstep hcode => ?_, fun s t a b c d f g l hzero hcode hlen hexec => ?_⟩
  · rcases step_recordLeaves hhost hbusy hzero hstep hcode with
      ⟨ht, hkey, hctr⟩ | ⟨rfl, ht⟩ | ⟨rfl, ht⟩ | rfl | rfl
    · exact ⟨fun _ => ht, fun he => absurd he hkey, fun he => absurd he hctr⟩
    · exact ⟨by simp, fun _ => ht, by simp⟩
    · exact ⟨by simp, by simp, fun _ => ht⟩
    · exact ⟨by simp, by simp, by simp⟩
    · exact ⟨by simp, by simp, by simp⟩
  · rcases hexec with hexec | hexec | hexec
    · exact exec_integrity_of_no_job hzero hcode (planOf_sivopen_short hlen a b d s) hexec
    · exact exec_integrity_of_no_job hzero hcode (planOf_aeadopen_short hlen a f g b d s) hexec
    · exact exec_integrity_of_no_job hzero hcode (planOf_stopen_short hlen l a f b d s) hexec

end Sys2Proof.Machine

/-!
PROOFS. Encoding and decoding undo each other (30_encoding.md R140 to R153): words as bytes, a header as its fields, and
the command that a header and its operand words name.
-/

namespace Sys2Proof

/-! ### Words as bytes (R103) -/

@[simp] theorem beword_wordBytes (w : Word) :
    beword (w.extractLsb' 24 8) (w.extractLsb' 16 8) (w.extractLsb' 8 8) (w.extractLsb' 0 8) = w := by
  rw [beword, BitVec.extractLsb'_append_extractLsb'_eq_extractLsb' (show 24 = 16 + 8 from rfl),
    BitVec.extractLsb'_append_extractLsb'_eq_extractLsb' (show 16 = 8 + 8 from rfl),
    BitVec.extractLsb'_append_extractLsb'_eq_extractLsb' (show 8 = 0 + 8 from rfl)]
  exact BitVec.extractLsb'_eq_self

/-- Bit `j` of a word is a bit of the byte that holds it. -/
theorem beword_getLsbD (b0 b1 b2 b3 : Byte) (j : Nat) : (beword b0 b1 b2 b3).getLsbD j =
    if j < 8 then b3.getLsbD j else if j < 16 then b2.getLsbD (j - 8) else if j < 24 then b1.getLsbD (j - 16)
    else b0.getLsbD (j - 24) := by
  rw [beword]
  simp only [BitVec.getLsbD_append]
  grind

/-- The bits from `a` on are a vector that has the same bits. -/
theorem extractLsb'_eq_of_getLsbD {v n a : Nat} {x : BitVec v} {y : BitVec n}
    (h : ∀ j, j < n → x.getLsbD (a + j) = y.getLsbD j) : x.extractLsb' a n = y :=
  BitVec.eq_of_getLsbD_eq fun j hj => by simp [hj, h j hj]

theorem wordBytes_beword (b0 b1 b2 b3 : Byte) : wordBytes (beword b0 b1 b2 b3) = [b0, b1, b2, b3] := by
  simp only [wordBytes, List.cons.injEq, and_true]
  refine ⟨?_, ?_, ?_, ?_⟩ <;> exact extractLsb'_eq_of_getLsbD fun j hj => by grind [beword_getLsbD]

theorem takeWord_eq_some_iff {bs rest : List Byte} {w : Word} :
    takeWord bs = some (w, rest) ↔ bs = wordBytes w ++ rest := by
  constructor
  · intro h
    unfold takeWord at h
    split at h
    · cases h
      rw [wordBytes_beword]
      rfl
    · cases h
  · rintro rfl
    simp [wordBytes, takeWord]

theorem takeWords_flatMap (ws : List Word) (rest : List Byte) :
    takeWords ws.length (ws.flatMap wordBytes ++ rest) = some (ws, rest) := by
  induction ws with
  | nil => rfl
  | cons w ws ih =>
    rw [List.flatMap_cons, List.append_assoc, List.length_cons, takeWords, takeWord_eq_some_iff.2 rfl]
    simp [ih]

theorem of_takeWords {n : Nat} {bs rest : List Byte} {ws : List Word} (h : takeWords n bs = some (ws, rest)) :
    ws.length = n ∧ bs = ws.flatMap wordBytes ++ rest := by
  induction n generalizing bs ws with
  | zero => cases h; exact ⟨rfl, rfl⟩
  | succ n ih =>
    rw [takeWords] at h
    split at h
    · cases h
    next w bs' hw =>
      split at h
      · cases h
      next hws =>
        cases h
        obtain ⟨hlen, hbs⟩ := ih hws
        exact ⟨congrArg (· + 1) hlen, by
          rw [takeWord_eq_some_iff.1 hw, hbs, List.flatMap_cons, List.append_assoc]⟩

/-! ### The field values (R143, R150, R151) -/

theorem BReg.field_and_regMask (r : BReg) : r.field &&& regMask true = 0#4 := by cases r <;> rfl

theorem modeField_and_mask : ∀ b : BitVec 2, (0#6 ++ b) &&& ~~~HeaderClass.m.flBits = 0#8 := by decide

theorem flagField_and_mask : ∀ b : BitVec 1, (0#7 ++ b) &&& ~~~HeaderClass.f.flBits = 0#8 := by decide

theorem KeyMode.bits_ofBits : ∀ b : BitVec 2, (KeyMode.ofBits b).bits = b := by decide

theorem Dir.bits_ofBits : ∀ b : BitVec 1, (Dir.ofBits b).bits = b := by decide

theorem Chunk.bits_ofBits : ∀ b : BitVec 1, (Chunk.ofBits b).bits = b := by decide

theorem Op.ofCode_code (o : Op) : Op.ofCode o.code = some o := by cases o <;> rfl

/-! ### A header from its fields (R141) -/

/-- Bit `j` of a header is a bit of the field that holds it. -/
theorem headerWord_getLsbD (opc : Byte) (rd rs : BitVec 4) (fl : Byte) (j : Nat) :
    (headerWord opc rd rs fl).getLsbD j =
      if j < 8 then false else if j < 16 then fl.getLsbD (j - 8) else if j < 20 then rs.getLsbD (j - 16)
      else if j < 24 then rd.getLsbD (j - 20) else opc.getLsbD (j - 24) := by
  simp only [headerWord, BitVec.getLsbD_append]
  grind

@[simp] theorem headerWord_opc (opc : Byte) (rd rs : BitVec 4) (fl : Byte) :
    Header.opc (headerWord opc rd rs fl) = opc :=
  extractLsb'_eq_of_getLsbD fun j hj => by grind [headerWord_getLsbD]

@[simp] theorem headerWord_rdField (opc : Byte) (rd rs : BitVec 4) (fl : Byte) :
    Header.rd (headerWord opc rd rs fl) = rd :=
  extractLsb'_eq_of_getLsbD fun j hj => by grind [headerWord_getLsbD]

@[simp] theorem headerWord_rs (opc : Byte) (rd rs : BitVec 4) (fl : Byte) :
    Header.rs (headerWord opc rd rs fl) = rs :=
  extractLsb'_eq_of_getLsbD fun j hj => by grind [headerWord_getLsbD]

@[simp] theorem headerWord_fl (opc : Byte) (rd rs : BitVec 4) (fl : Byte) :
    Header.fl (headerWord opc rd rs fl) = fl :=
  extractLsb'_eq_of_getLsbD fun j hj => by grind [headerWord_getLsbD]

@[simp] theorem headerWord_z (opc : Byte) (rd rs : BitVec 4) (fl : Byte) :
    Header.z (headerWord opc rd rs fl) = 0#8 :=
  extractLsb'_eq_of_getLsbD fun j hj => by grind [headerWord_getLsbD]

/-- The variable fields lie in the low bits of RD, RS and FL (R143, R150, R151). -/
theorem Fields.ofHeader_eq (h : Word) : Fields.ofHeader h =
    { rd := BReg.ofBits ((Header.rd h).extractLsb' 0 2), rs := BReg.ofBits ((Header.rs h).extractLsb' 0 2),
      mode := KeyMode.ofBits ((Header.fl h).extractLsb' 0 2), flag := (Header.fl h).extractLsb' 0 1 } := by
  have hlow : ∀ (a n m : Nat), m ≤ n → (h.extractLsb' a n).extractLsb' 0 m = h.extractLsb' a m := fun a n m hle =>
    extractLsb'_eq_of_getLsbD fun j hj => by simp [hj, hj.trans_le hle]
  simp [Fields.ofHeader, Header.rd, Header.rs, Header.fl, hlow]

/-! ### The command that a header names (R146, R148) -/

/-- The FL field that a class gives a header with these variable fields (R145). -/
def HeaderClass.flOf (c : HeaderClass) (f : Fields) : Byte :=
  match c with
  | .m => 0#6 ++ f.mode.bits
  | .f => 0#7 ++ f.flag
  | _ => 0#8

/-- The header of an opcode with these variable fields, those that its class does not use zero (R145). -/
def Fields.header (f : Fields) (o : Op) : Word :=
  headerWord o.code (if o.cls.usesRd then f.rd.field else 0#4) (if o.cls.usesRs then f.rs.field else 0#4)
    (o.cls.flOf f)

/-- A command built from an opcode, fields and operand words has them. -/
theorem of_buildInstr {o : Op} {f : Fields} {ws : List Word} {i : Instr} (h : buildInstr o f ws = some i) :
    i.op = o ∧ i.operands = ws ∧ i.header = f.header o := by
  cases o with
  | endc | nop | bclr | bmov | bxor | bdbl | kclear | mreset | mfinish | s2vinit | ivq =>
    match ws, h with
    | [], rfl => exact ⟨rfl, rfl, rfl⟩
  | bld | bst =>
    match ws, h with
    | [_], rfl => exact ⟨rfl, rfl, rfl⟩
  | stinit =>
    match ws, h with
    | [_], rfl => exact ⟨rfl, rfl, congrArg (headerWord 0x60#8 0#4 0#4 <| 0#7 ++ ·) (Dir.bits_ofBits f.flag)⟩
  | kimport | mupdate | s2vad | s2vfin =>
    match ws, h with
    | [_, _], rfl => exact ⟨rfl, rfl, rfl⟩
  | ctrx =>
    match ws, h with
    | [_, _, _], rfl => exact ⟨rfl, rfl, rfl⟩
  | sivseal | sivopen =>
    match ws, h with
    | [_, _, _, _], rfl => exact ⟨rfl, rfl, rfl⟩
  | stseal =>
    match ws, h with
    | [_, _, _, _, _], rfl =>
      exact ⟨rfl, rfl, congrArg (headerWord 0x61#8 0#4 0#4 <| 0#7 ++ ·) (Chunk.bits_ofBits f.flag)⟩
  | stopen =>
    match ws, h with
    | [_, _, _, _, _], rfl =>
      exact ⟨rfl, rfl, congrArg (headerWord 0x62#8 0#4 0#4 <| 0#7 ++ ·) (Chunk.bits_ofBits f.flag)⟩
  | aeadseal | aeadopen =>
    match ws, h with
    | [_, _, _, _, _, _], rfl => exact ⟨rfl, rfl, rfl⟩

theorem Instr.rdField_and_mask (i : Instr) : i.rdField &&& regMask i.op.cls.usesRd = 0#4 := by
  cases i <;> simp [Instr.rdField, Instr.op, Op.cls, HeaderClass.usesRd, BReg.field_and_regMask]

theorem Instr.rsField_and_mask (i : Instr) : i.rsField &&& regMask i.op.cls.usesRs = 0#4 := by
  cases i <;> simp [Instr.rsField, Instr.op, Op.cls, HeaderClass.usesRs, BReg.field_and_regMask]

theorem Instr.flField_and_mask (i : Instr) : i.flField &&& ~~~i.op.cls.flBits = 0#8 := by
  cases i with
  | kimport mode => exact modeField_and_mask mode.bits
  | stinit dir => exact flagField_and_mask dir.bits
  | stseal chunk | stopen chunk => exact flagField_and_mask chunk.bits
  | _ => exact BitVec.zero_and

/-- The header of a command decodes to its opcode (R146). -/
theorem decodeHeader_header (i : Instr) : decodeHeader i.header = some (i.op, Fields.ofHeader i.header) := by
  have hmask : i.header &&& i.op.cls.mask = i.op.fixed := by
    rw [Header.eq_iff_fields]
    simpa [Instr.header, i.rdField_and_mask, i.rsField_and_mask, i.flField_and_mask] using
      (BitVec.and_allOnes : i.op.code &&& BitVec.allOnes 8 = i.op.code)
  rw [decodeHeader, Instr.header, headerWord_opc, Op.ofCode_code, ← Instr.header]
  exact if_pos hmask

/-- From its header and its operand words a command is built again (R148). -/
theorem buildInstr_header (i : Instr) : buildInstr i.op (Fields.ofHeader i.header) i.operands = some i := by
  rw [Fields.ofHeader_eq, Instr.header, headerWord_rdField, headerWord_rs, headerWord_fl]
  cases i with
  | bclr r | bld r | bst r | mfinish r | s2vfin r | ctrx r => cases r <;> rfl
  | bmov rd rs | bxor rd rs | bdbl rd rs | ivq rd rs => cases rd <;> cases rs <;> rfl
  | kimport mode => cases mode <;> rfl
  | stinit dir => cases dir <;> rfl
  | stseal chunk | stopen chunk => cases chunk <;> rfl
  | _ => rfl

/-- A register field whose fixed bits are zero is that of the register its low bits name, or is not used (R143,
R145). -/
theorem eq_field_of_regMask : ∀ (used : Bool) (x : BitVec 4), x &&& regMask used = 0#4 →
    x = if used then (BReg.ofBits (x.extractLsb' 0 2)).field else 0#4 := by decide

theorem eq_modeField : ∀ x : Byte, x &&& ~~~HeaderClass.m.flBits = 0#8 → x = 0#6 ++ x.extractLsb' 0 2 := by decide

theorem eq_flagField : ∀ x : Byte, x &&& ~~~HeaderClass.f.flBits = 0#8 → x = 0#7 ++ x.extractLsb' 0 1 := by decide

/-- An FL field with no bit set but those that the class defines is that of its MODE or FLAG (R145). -/
theorem eq_flOf_of_mask (c : HeaderClass) {x : Byte} {f : Fields} (h : x &&& ~~~c.flBits = 0#8)
    (hmode : f.mode = KeyMode.ofBits (x.extractLsb' 0 2)) (hflag : f.flag = x.extractLsb' 0 1) : x = c.flOf f := by
  cases c with
  | m =>
    rw [HeaderClass.flOf, hmode, KeyMode.bits_ofBits]
    exact eq_modeField x h
  | f =>
    rw [HeaderClass.flOf, hflag]
    exact eq_flagField x h
  | n | d | s | ds => exact BitVec.and_allOnes.symm.trans h

/-- A header that decodes is that of its opcode and its variable fields (R145, R146). -/
theorem of_decodeHeader {h : Word} {o : Op} {f : Fields} (hd : decodeHeader h = some (o, f)) : h = f.header o := by
  unfold decodeHeader at hd
  split at hd
  · cases hd
  · split at hd
    next hmask =>
      cases hd
      obtain ⟨hopc, hrd, hrs, hfl, hz⟩ := Header.eq_iff_fields.1 hmask
      simp only [Header.opc_and, Header.rd_and, Header.rs_and, Header.fl_and, Header.z_and, HeaderClass.opc_mask,
        HeaderClass.rd_mask, HeaderClass.rs_mask, HeaderClass.fl_mask, HeaderClass.z_mask, Op.opc_fixed, Op.rd_fixed,
        Op.rs_fixed, Op.fl_fixed, Op.z_fixed, BitVec.and_allOnes] at hopc hrd hrs hfl hz
      rw [Header.eq_iff_fields, Fields.header, Fields.ofHeader_eq]
      simp only [headerWord_opc, headerWord_rdField, headerWord_rs, headerWord_fl, headerWord_z]
      exact ⟨hopc, eq_field_of_regMask _ _ hrd, eq_field_of_regMask _ _ hrs, eq_flOf_of_mask _ hfl rfl rfl, hz⟩
    · cases hd

/-! ### Encoding and decoding -/

/-- Settles O2: the header decodes to its opcode and fields, and the opcode says how many operand words follow. -/
theorem decodeInvertsEncode : Obligations.DecodeInvertsEncode := by
  unfold Obligations.DecodeInvertsEncode
  intro i rest
  have hlen : i.operands.length = i.op.k := by cases i <;> rfl
  have hhead : takeWord (encode i ++ rest) = some (i.header, i.operands.flatMap wordBytes ++ rest) :=
    takeWord_eq_some_iff.2 (List.append_assoc ..)
  simp [decode, hhead, decodeHeader_header, ← hlen, takeWords_flatMap, buildInstr_header]

/-- Settles O3: the words taken are those of the command built, since a header that decodes is fixed by its opcode and
fields. -/
theorem encodeInvertsDecode : Obligations.EncodeInvertsDecode := by
  unfold Obligations.EncodeInvertsDecode
  intro bs i rest h
  unfold decode at h
  split at h
  · cases h
  next w rest1 hw =>
  split at h
  · cases h
  next o f ho =>
  split at h
  · cases h
  next ws rest2 hws =>
  split at h
  · cases h
  next hi =>
  cases h
  obtain ⟨rfl, rfl, hheader⟩ := of_buildInstr hi
  rw [takeWord_eq_some_iff.1 hw, (of_takeWords hws).2, of_decodeHeader ho, ← hheader, ← List.append_assoc]
  rfl

end Sys2Proof

/-!
PROOFS. Updates of the MAC engines (42_cmac.md R235; 43_pmac.md R266, R270): how many blocks an update absorbs and how
many bytes it leaves pending, and that both engines take a message byte by byte, so that it may be split anywhere.
-/

namespace Sys2Proof.Machine

/-! ### POS and PCNT after an update (R266, R270) -/

theorem cmacUpdate_pos (e : Block → Block) {a : Acc} (d : Bytes) (h : a.pos ≤ 16) :
    (cmacUpdate e a d).pos = a.pos + d.length - 16 * absorbed a.pos d.length := by
  unfold cmacUpdate absorbed
  dsimp only
  split_ifs <;> simp <;> omega

theorem cmacUpdate_pcnt (e : Block → Block) (a : Acc) (d : Bytes) : (cmacUpdate e a d).pcnt = a.pcnt := by
  unfold cmacUpdate
  dsimp only
  split <;> rfl

theorem pmacUpdate_pos (e : Block → Block) (k : Keys) {a : Acc} (d : Bytes) (h : a.pos ≤ 16) :
    (pmacUpdate e k a d).pos = a.pos + d.length - 16 * absorbed a.pos d.length := by
  unfold pmacUpdate absorbed
  dsimp only
  split_ifs <;> simp <;> omega

theorem pmacBlocks_pcnt (e : Block → Block) (k : Keys) (n : Nat) (a : Acc) (d : Bytes) :
    (pmacBlocks e k n a d).pcnt = a.pcnt + n := by
  induction n generalizing a d with
  | zero => rfl
  | succ n ih =>
    rw [pmacBlocks, ih]
    exact Nat.add_right_comm a.pcnt 1 n

theorem pmacUpdate_pcnt (e : Block → Block) (k : Keys) {a : Acc} (d : Bytes) (h : a.pos ≤ 16) :
    (pmacUpdate e k a d).pcnt = a.pcnt + absorbed a.pos d.length := by
  unfold pmacUpdate absorbed
  dsimp only
  split_ifs <;> simp [pmacBlocks_pcnt, pmacBlock] <;> omega

theorem macUpdate_pos (e : Block → Block) (k : Keys) {a : Acc} (d : Bytes) (h : a.pos ≤ 16) :
    (macUpdate e k a d).pos = a.pos + d.length - 16 * absorbed a.pos d.length := by
  unfold macUpdate
  split
  · exact pmacUpdate_pos e k d h
  · exact cmacUpdate_pos e d h
  · exact cmacUpdate_pos e d h

/-- Pending bytes number at most 16. -/
theorem pending_le (p n : Nat) : p + n - 16 * absorbed p n ≤ 16 := by
  unfold absorbed
  split <;> omega

theorem macUpdate_pos_le (e : Block → Block) (k : Keys) {a : Acc} (d : Bytes) (h : a.pos ≤ 16) :
    (macUpdate e k a d).pos ≤ 16 := by
  rw [macUpdate_pos e k d h]
  exact pending_le a.pos d.length

/-- The blocks absorbed by two updates are those of one update. -/
theorem absorbed_add {p : Nat} (h : p ≤ 16) (m n : Nat) :
    absorbed p m + absorbed (p + m - 16 * absorbed p m) n = absorbed p (m + n) := by
  unfold absorbed
  split_ifs <;> omega

/-! ### An engine byte by byte (R234, R266) -/

/-- How an engine takes bytes: `put` adds bytes that fit beside the pending ones, `absorb` takes in a full block. -/
structure TakesBytes (put : Acc → Bytes → Acc) (absorb : Acc → Acc) : Prop where
  put_nil : ∀ a, put a [] = a
  put_put : ∀ a x y, a.pos + x.length + y.length ≤ 16 → put (put a x) y = put a (x ++ y)
  put_pos : ∀ a x, (put a x).pos = a.pos + x.length
  absorb_pos : ∀ a, (absorb a).pos = 0

/-- One byte: a full block is absorbed first. -/
def takeByte (put : Acc → Bytes → Acc) (absorb : Acc → Acc) (a : Acc) (b : Byte) : Acc :=
  put (if a.pos = 16 then absorb a else a) [b]

/-- A string taken byte by byte. -/
def takeAll (put : Acc → Bytes → Acc) (absorb : Acc → Acc) (a : Acc) (d : Bytes) : Acc :=
  d.foldl (takeByte put absorb) a

section TakeAll

variable {put : Acc → Bytes → Acc} {absorb : Acc → Acc} (t : TakesBytes put absorb)
include t

/-- Bytes that fit are put beside the pending ones. -/
theorem takeAll_of_fits {a : Acc} {d : Bytes} (h : a.pos + d.length ≤ 16) : takeAll put absorb a d = put a d := by
  induction d generalizing a with
  | nil => exact (t.put_nil a).symm
  | cons b d ih =>
    simp only [List.length_cons] at h
    have hstep : takeByte put absorb a b = put a [b] := by rw [takeByte, if_neg (by omega)]
    have hpos : (put a [b]).pos = a.pos + 1 := t.put_pos a [b]
    change takeAll put absorb (takeByte put absorb a b) d = _
    rw [hstep, ih (by omega), t.put_put _ _ _ (by simp; omega)]
    rfl

/-- More bytes after a full block: it is absorbed first. -/
theorem takeAll_of_full {a : Acc} {d : Bytes} (h : a.pos = 16) (hd : d ≠ []) :
    takeAll put absorb a d = takeAll put absorb (absorb a) d := by
  obtain ⟨b, d, rfl⟩ := List.exists_cons_of_ne_nil hd
  have hstep : takeByte put absorb a b = takeByte put absorb (absorb a) b := by
    rw [takeByte, takeByte, if_pos h, if_neg (by rw [t.absorb_pos]; omega)]
  exact congrArg (List.foldl (takeByte put absorb) · d) hstep

/-- Bytes that do not fit complete the pending block, which is absorbed before the others. -/
theorem takeAll_of_overflows {a : Acc} {d : Bytes} (hpos : a.pos ≤ 16) (h : 16 - a.pos < d.length) :
    takeAll put absorb a d =
      takeAll put absorb (absorb (put a (d.take (16 - a.pos)))) (d.drop (16 - a.pos)) := by
  have hlen : (d.take (16 - a.pos)).length = 16 - a.pos := by simp; omega
  have hsplit : takeAll put absorb a d =
      takeAll put absorb (takeAll put absorb a (d.take (16 - a.pos))) (d.drop (16 - a.pos)) := by
    rw [takeAll, takeAll, takeAll, ← List.foldl_append, List.take_append_drop]
  have hfull : (put a (d.take (16 - a.pos))).pos = 16 := by rw [t.put_pos]; omega
  have hne : d.drop (16 - a.pos) ≠ [] := by simpa using h
  rw [hsplit, takeAll_of_fits t (d := d.take (16 - a.pos)) (by omega), takeAll_of_full t hfull hne]

end TakeAll

theorem takeAll_append (put : Acc → Bytes → Acc) (absorb : Acc → Acc) (a : Acc) (x y : Bytes) :
    takeAll put absorb a (x ++ y) = takeAll put absorb (takeAll put absorb a x) y := List.foldl_append

/-! ### CMAC byte by byte (R234) -/

/-- Byte `i` of a block that holds a string from `pos` on. -/
theorem blockByte_placeAt (pos : Nat) (x : Bytes) {i : Nat} (hi : i < 16) :
    blockByte (placeAt pos x) i = if i < pos then 0#8 else x.getD (i - pos) 0#8 := by
  rw [placeAt, blockByte_blockOf _ _ hi]
  split
  next h => simp [List.getElem?_append_left, h]
  next h => simp [List.getElem?_append_right, Nat.le_of_not_lt h]

theorem placeAt_xor_placeAt (pos : Nat) (x y : Bytes) :
    placeAt pos x ^^^ placeAt (pos + x.length) y = placeAt pos (x ++ y) := by
  refine block_ext fun i hi => ?_
  rw [blockByte_xor, blockByte_placeAt _ _ hi, blockByte_placeAt _ _ hi, blockByte_placeAt _ _ hi]
  grind [blockBytes_length]

/-- CMAC's bytes are XORed into BUF. -/
def cmacPut (a : Acc) (d : Bytes) : Acc := { a with buf := a.buf ^^^ placeAt a.pos d, pos := a.pos + d.length }

/-- CMAC's full block is encrypted. -/
def cmacAbsorb (e : Block → Block) (a : Acc) : Acc := { a with buf := e a.buf, pos := 0 }

theorem placeAt_nil (pos : Nat) : placeAt pos [] = 0#128 := by
  refine block_ext fun i hi => ?_
  rw [blockByte_placeAt _ _ hi]
  simp [blockByte]

theorem takesBytes_cmac (e : Block → Block) : TakesBytes cmacPut (cmacAbsorb e) where
  put_nil a := by simp [cmacPut, placeAt_nil]
  put_put a x y _ := by simp [cmacPut, BitVec.xor_assoc, placeAt_xor_placeAt, Nat.add_assoc]
  put_pos _ _ := rfl
  absorb_pos _ := rfl

/-- The loop of R234 is the bytes of its blocks, taken one by one. -/
theorem takeAll_cmacChain (e : Block → Block) (k : Nat) {a : Acc} {d : Bytes} (hpos : a.pos = 0)
    (hlo : 16 * k < d.length) (hhi : d.length ≤ 16 * k + 16) :
    takeAll cmacPut (cmacAbsorb e) a d =
      { a with buf := cmacChain e k a.buf d ^^^ placeAt 0 (d.drop (16 * k)), pos := (d.drop (16 * k)).length } := by
  induction k generalizing a d with
  | zero => rw [takeAll_of_fits (takesBytes_cmac e) (by omega)]; simp [cmacPut, hpos, cmacChain]
  | succ k ih =>
    rw [takeAll_of_overflows (takesBytes_cmac e) (by omega) (by omega), ih rfl (by simp; omega) (by simp; omega)]
    simp [cmacPut, cmacAbsorb, hpos, cmacChain, Nat.mul_add, Nat.add_comm]

theorem cmacUpdate_eq_takeAll (e : Block → Block) {a : Acc} (d : Bytes) (h : a.pos ≤ 16) :
    cmacUpdate e a d = takeAll cmacPut (cmacAbsorb e) a d := by
  unfold cmacUpdate
  dsimp only
  split
  next hfits => rw [takeAll_of_fits (takesBytes_cmac e) (by omega)]; rfl
  next hover =>
    have hlen : (d.drop (16 - a.pos)).length = d.length - (16 - a.pos) := List.length_drop
    rw [takeAll_of_overflows (takesBytes_cmac e) h (by omega),
      takeAll_cmacChain e (((d.drop (16 - a.pos)).length - 1) / 16) rfl (by omega) (by omega)]
    rfl

/-! ### PMAC byte by byte (R266) -/

/-- Byte `i` of an overlay. -/
theorem blockByte_overlay (b : Block) {pos : Nat} (x : Bytes) {i : Nat} (hpos : pos ≤ 16) (hi : i < 16) :
    blockByte (overlay b pos x) i = if pos ≤ i ∧ i < pos + x.length then x.getD (i - pos) 0#8 else blockByte b i := by
  rw [overlay, blockByte_blockOf _ _ hi]
  have hb : ∀ j, j < 16 → (blockBytes b)[j]? = some (blockByte b j) := fun j hj => by
    rw [List.getElem?_eq_getElem (by simpa using hj), blockBytes_getElem]
  grind [blockBytes_length]

/-- PMAC's bytes are put in their place in BUF. -/
def pmacPut (a : Acc) (d : Bytes) : Acc := { a with buf := overlay a.buf a.pos d, pos := a.pos + d.length }

theorem takesBytes_pmac (e : Block → Block) (k : Keys) : TakesBytes pmacPut (pmacBlock e k) where
  put_nil a := by simp [pmacPut, overlay]
  put_put a x y h := by
    have hbuf : overlay (overlay a.buf a.pos x) (a.pos + x.length) y = overlay a.buf a.pos (x ++ y) := by
      refine block_ext fun i hi => ?_
      rw [blockByte_overlay _ _ (by omega) hi, blockByte_overlay _ _ (by omega) hi,
        blockByte_overlay _ _ (by omega) hi]
      grind
    simp [pmacPut, hbuf, Nat.add_assoc]
  put_pos _ _ := rfl
  absorb_pos _ := rfl

/-- The loop of R266 is the bytes of its blocks, taken one by one. -/
theorem takeAll_pmacBlocks (e : Block → Block) (k : Keys) (n : Nat) {a : Acc} {d : Bytes} (hpos : a.pos = 0)
    (hlo : 16 * n < d.length) (hhi : d.length ≤ 16 * n + 16) :
    takeAll pmacPut (pmacBlock e k) a d =
      { pmacBlocks e k n a d with
        buf := overlay (pmacBlocks e k n a d).buf 0 (d.drop (16 * n)), pos := (d.drop (16 * n)).length } := by
  induction n generalizing a d with
  | zero => rw [takeAll_of_fits (takesBytes_pmac e k) (by omega)]; simp [pmacPut, hpos, pmacBlocks]
  | succ n ih =>
    have hput : pmacPut a (d.take 16) = { a with buf := blockOf (d.take 16), pos := 16 } := by
      have hlen : (d.take 16).length = 16 := by simp; omega
      rw [pmacPut, hpos, overlay_of_full _ (by omega), hlen]
      rfl
    rw [takeAll_of_overflows (takesBytes_pmac e k) (by omega) (by omega), hpos, hput,
      ih rfl (by simp; omega) (by simp; omega)]
    simp [pmacBlocks, Nat.mul_add, Nat.add_comm]

theorem pmacUpdate_eq_takeAll (e : Block → Block) (k : Keys) {a : Acc} (d : Bytes) (h : a.pos ≤ 16) :
    pmacUpdate e k a d = takeAll pmacPut (pmacBlock e k) a d := by
  unfold pmacUpdate
  dsimp only
  split
  next hfits => rw [takeAll_of_fits (takesBytes_pmac e k) (by omega)]; rfl
  next hover =>
    have hlen : (d.drop (16 - a.pos)).length = d.length - (16 - a.pos) := List.length_drop
    have hput : pmacPut a (d.take (16 - a.pos)) =
        { a with buf := overlay a.buf a.pos (d.take (16 - a.pos)), pos := 16 } := by
      have hpos : a.pos + (d.take (16 - a.pos)).length = 16 := by simp; omega
      rw [pmacPut, hpos]
    rw [takeAll_of_overflows (takesBytes_pmac e k) h (by omega), hput,
      takeAll_pmacBlocks e k (((d.drop (16 - a.pos)).length - 1) / 16) rfl (by omega) (by omega)]

/-! ### The engine that MACMODE names -/

/-- How the engine of a MACMODE takes bytes. -/
def macPut (m : MacMode) : Acc → Bytes → Acc :=
  match m with
  | .pmac => pmacPut
  | .cmac | .none => cmacPut

/-- How the engine of a MACMODE takes in a full block. -/
def macAbsorb (e : Block → Block) (k : Keys) : Acc → Acc :=
  match k.macmode with
  | .pmac => pmacBlock e k
  | .cmac | .none => cmacAbsorb e

theorem macUpdate_eq_takeAll (e : Block → Block) (k : Keys) {a : Acc} (d : Bytes) (h : a.pos ≤ 16) :
    macUpdate e k a d = takeAll (macPut k.macmode) (macAbsorb e k) a d := by
  unfold macUpdate macPut macAbsorb
  cases k.macmode with
  | pmac => exact pmacUpdate_eq_takeAll e k d h
  | cmac | none => exact cmacUpdate_eq_takeAll e d h

/-- Settles O27: each engine takes a message byte by byte, and how many blocks it absorbs depends on lengths only. -/
theorem updatesMaySplit : Obligations.UpdatesMaySplit := by
  unfold Obligations.UpdatesMaySplit
  intro e k a x y h
  constructor
  · rw [macUpdate_eq_takeAll e k y (macUpdate_pos_le e k x h), macUpdate_eq_takeAll e k x h,
      macUpdate_eq_takeAll e k (x ++ y) h, takeAll_append]
  · rw [macUpdate_pos e k x h, absorbed_add h, List.length_append]

end Sys2Proof.Machine

/-!
PROOFS. The invariant (Safety.lean): what every command's job leaves in the engines, what an interruption draws, and
that a command, an error and every action of the host keep it.
-/

namespace Sys2Proof.Machine

/-! ### The parts of the invariant -/

/-- The invariant of keys (R34, R35, R300). -/
structure Keys.Fit (k : Keys) : Prop where
  macKey : k.macmode = .none ↔ k.mkey = []
  ctrKey : k.macmode = .none → k.ckey = []
  mkeyLen : k.mkey.length ≤ 32
  ckeyLen : k.ckey.length ≤ 32

/-- The invariant of the accumulator (R38, R39). -/
structure Acc.Fit (a : Acc) : Prop where
  posLe : a.pos ≤ 16
  pcntLt : a.pcnt < 2 ^ Config.pmacLtab

/-- The invariant of what commands compute with: keys, accumulator, S2V and STREAM state. -/
structure State.Fit (s : State) : Prop where
  keys : s.keys.Fit
  acc : s.acc.Fit
  nadLe : s.s2v.nad ≤ Config.maxAd
  pfxLen : s.stream.pfx.length = Config.prefixLen

/-- The invariant of MEM and the pointers. -/
structure State.Placed (s : State) : Prop where
  memWf : Memory.wf s.mem = true
  cpcAligned : s.cpc.toNat % 4 = 0
  cptrAligned : s.cptr.toNat % 4 = 0

/-- The invariant of the run's record (R180, R466, R469). -/
structure State.Recorded (s : State) : Prop where
  running : s.busy = true → s.done = false ∧ s.err = false ∧ s.errcode = 0#8 ∧ s.errpc = 0#32
  oneOutcome : ¬(s.done = true ∧ s.err = true)
  errCode : s.err = true → s.errcode ≠ 0#8

theorem inv_iff (s : State) : s.Inv ↔ s.Fit ∧ s.Placed ∧ s.Recorded :=
  ⟨fun ⟨h1, h2, h3, h4, h5, h6, h7, h8, h9, h10, h11, h12, h13, h14⟩ =>
    ⟨⟨⟨h7, h8, h9, h10⟩, ⟨h4, h5⟩, h6, h11⟩, ⟨h1, h2, h3⟩, ⟨h12, h13, h14⟩⟩,
    fun ⟨⟨⟨h7, h8, h9, h10⟩, ⟨h4, h5⟩, h6, h11⟩, ⟨h1, h2, h3⟩, ⟨h12, h13, h14⟩⟩ =>
    ⟨h1, h2, h3, h4, h5, h6, h7, h8, h9, h10, h11, h12, h13, h14⟩⟩

/-- States with the same keys, engines and stream. -/
theorem State.Fit.congr {s t : State} (h : s.Fit) (hk : t.keys = s.keys) (ha : t.acc = s.acc) (hd : t.s2v = s.s2v)
    (hs : t.stream = s.stream) : t.Fit := by
  obtain ⟨h1, h2, h3, h4⟩ := h
  exact ⟨hk ▸ h1, ha ▸ h2, hd ▸ h3, hs ▸ h4⟩

/-! ### Keys (R300, R301) -/

theorem Keys.fit_cleared : Keys.cleared.Fit := ⟨by simp [Keys.cleared], fun _ => rfl, by simp [Keys.cleared],
  by simp [Keys.cleared]⟩

theorem acceptsKeyLen_bounds {n : Nat} (h : Config.acceptsKeyLen n = true) : 1 ≤ n ∧ n ≤ 32 := by
  unfold Config.acceptsKeyLen at h
  split at h
  · simp only [Bool.and_eq_true, decide_eq_true_eq] at h
    exact ⟨h.1, by omega⟩
  · cases h

/-- The keys of an import. -/
@[simp] theorem Keys.imported_mkey (mode : KeyMode) (mk ck : Bytes) : (Keys.imported mode mk ck).mkey = mk := by
  cases mode <;> rfl

@[simp] theorem Keys.imported_ckey (mode : KeyMode) (mk ck : Bytes) : (Keys.imported mode mk ck).ckey = ck := by
  cases mode <;> rfl

@[simp] theorem Keys.imported_macmode (mode : KeyMode) (mk ck : Bytes) :
    (Keys.imported mode mk ck).macmode = macOf mode := by cases mode <;> rfl

/-- The halves of an accepted key have lengths of P_BC_KEYLEN (R301). -/
theorem splitKey_lengths {mode : KeyMode} {key mk ck : Bytes} (h : splitKey mode key = some (mk, ck)) :
    1 ≤ mk.length ∧ mk.length ≤ 32 ∧ ck.length ≤ 32 := by
  unfold splitKey at h
  cases mode with
  | cmac | pmac =>
    dsimp only at h
    split at h
    next ha =>
      cases h
      exact ⟨(acceptsKeyLen_bounds ha).1, (acceptsKeyLen_bounds ha).2, by simp⟩
    · cases h
  | siv | pmacsiv =>
    dsimp only at h
    split at h
    · cases h
    next ha =>
      cases h
      simp only [Bool.or_eq_true, decide_eq_true_eq, Bool.not_eq_true', not_or, Bool.not_eq_false] at ha
      have hb := acceptsKeyLen_bounds ha.2
      simp only [List.length_take, List.length_drop]
      omega

theorem Keys.fit_imported {mode : KeyMode} {key mk ck : Bytes} (h : splitKey mode key = some (mk, ck)) :
    (Keys.imported mode mk ck).Fit := by
  obtain ⟨hpos, hmk, hck⟩ := splitKey_lengths h
  have hmac : macOf mode ≠ .none := by cases mode <;> decide
  have hne : mk ≠ [] := List.ne_nil_of_length_pos hpos
  exact ⟨by simp [hmac, hne], by simp [hmac], by simpa using hmk, by simpa using hck⟩

/-! ### The accumulator -/

theorem Acc.fit_cleared : Acc.cleared.Fit := ⟨by decide, by decide⟩

theorem Acc.fit_macReset {a : Acc} (m : MacMode) (h : a.Fit) : (macReset m a).Fit := by
  cases m with
  | pmac => exact Acc.fit_cleared
  | cmac | none => exact ⟨Nat.zero_le _, h.pcntLt⟩

theorem Acc.fit_macFinish {a : Acc} (e : Block → Block) (k : Keys) (h : a.Fit) : (macFinish e k a).Fit := by
  unfold macFinish
  split
  · exact h
  · exact ⟨h.posLe, h.pcntLt⟩

/-- An update within the PMAC block limit (R270). -/
theorem Acc.fit_macUpdate {a : Acc} (e : Block → Block) (k : Keys) (d : Bytes) (h : a.Fit)
    (hlim : k.macmode = .pmac → a.pcnt + absorbed a.pos d.length ≤ pmacLimit) : (macUpdate e k a d).Fit := by
  refine ⟨macUpdate_pos_le e k d h.posLe, ?_⟩
  unfold macUpdate
  split
  next hm =>
    rw [pmacUpdate_pcnt e k d h.posLe]
    have := hlim hm
    simp only [pmacLimit, Config.pmacLtab] at this ⊢
    omega
  · rw [cmacUpdate_pcnt]; exact h.pcntLt
  · rw [cmacUpdate_pcnt]; exact h.pcntLt

theorem lostAcc_fit (n : Nat) : (lostAcc n).Fit := by
  have hp : (lostAcc n).pos = Config.lostCount n 0 % 17 := rfl
  have hc : (lostAcc n).pcnt = Config.lostCount n 1 % 2 ^ Config.pmacLtab := rfl
  exact ⟨by omega, by rw [hc]; exact Nat.mod_lt _ (by decide)⟩

theorem lostS2v_nad_le (n : Nat) : (lostS2v n).nad ≤ Config.maxAd :=
  Nat.le_of_lt_succ (Nat.mod_lt _ (by decide))

/-! ### What the job of a command leaves -/

/-- After zeroize, whatever keys are loaded then (R299, R300). -/
theorem State.Fit.of_cleared {t : State} (hk : t.keys.Fit) (ha : t.acc = Acc.cleared) (hd : t.s2v = S2v.cleared)
    (hs : t.stream = Stream.cleared) : t.Fit :=
  ⟨hk, ha ▸ Acc.fit_cleared, by rw [hd]; decide, by rw [hs]; decide⟩

/-- A check before a plan that is a job has passed, and its condition is false. -/
theorem of_check_iff {b : Prop} [Decidable b] {s : State} {e : Err} {p : Plan} {j : Job}
    (h : (if b then .stop e s else p) = .go j) : ¬b ∧ p = .go j := by
  split at h
  · cases h
  · exact ⟨‹_›, h⟩

/-- The engines idle and the stream as it was or moved on: what a whole-message command leaves. -/
theorem State.Fit.idle {s t : State} (h : s.Fit) (hk : t.keys = s.keys) (ha : t.acc = macReset s.keys.macmode s.acc)
    (hd : t.s2v = S2v.cleared) (hs : t.stream.pfx = s.stream.pfx) : t.Fit :=
  ⟨hk ▸ h.keys, ha ▸ Acc.fit_macReset _ h.acc, by rw [hd]; decide, by rw [hs]; exact h.pfxLen⟩

@[simp] theorem State.nextChunk_pfx (c : Chunk) (s : State) : (State.nextChunk c s).stream.pfx = s.stream.pfx := by
  cases c <;> rfl

theorem fit_sealJob {s : State} (h : s.Fit) (ads : List Bytes) (p : Bytes) (dst : Nat) {after : State → State}
    (hafter : after = id ∨ ∃ c, after = State.nextChunk c) : (sealJob ads p dst after s).final.Fit := by
  rcases hafter with rfl | ⟨c, rfl⟩ <;> exact h.idle (by simp [sealJob]) (by simp [sealJob]) (by simp [sealJob])
    (by simp [sealJob])

theorem fit_openJob {s : State} (h : s.Fit) (ads : List Bytes) (x : Bytes) (dst : Nat) {after : State → State}
    (hafter : after = id ∨ ∃ c, after = State.nextChunk c) : (openJob ads x dst after s).final.Fit := by
  unfold openJob
  cases sivOpen Config.bc s.keys ads x with
  | none => exact h.idle (by simp) (by simp) (by simp) (by simp)
  | some p => rcases hafter with rfl | ⟨c, rfl⟩ <;> exact h.idle (by simp) (by simp) (by simp) (by simp)

theorem fit_kimport {mode : KeyMode} {addr len : Word} {s : State} {j : Job}
    (hp : planKimport mode addr len s = .go j) : j.final.Fit := by
  have hgo := of_check hp
  dsimp only at hgo
  split at hgo
  · cases hgo
    exact .of_cleared Keys.fit_cleared rfl rfl rfl
  next hsplit =>
    cases hgo
    exact .of_cleared (Keys.fit_imported hsplit) rfl rfl rfl

theorem fit_mupdate {addr len : Word} {s : State} {j : Job} (h : s.Fit) (hp : planMupdate addr len s = .go j) :
    j.final.Fit := by
  obtain ⟨hlim, hgo⟩ := of_check_iff (of_check (of_check (of_check (of_gated hp))))
  cases hgo
  refine ⟨h.keys, Acc.fit_macUpdate _ _ _ h.acc fun hm => ?_, h.nadLe, h.pfxLen⟩
  simpa [hm] using hlim

theorem fit_s2vad {addr len : Word} {s : State} {j : Job} (h : s.Fit) (hp : planS2vad addr len s = .go j) :
    j.final.Fit := by
  obtain ⟨hlim, hgo⟩ := of_check_iff (of_check (of_check (of_check (of_gated hp))))
  cases hgo
  exact ⟨h.keys, Acc.fit_macReset _ h.acc, Nat.lt_of_le_of_ne h.nadLe hlim, h.pfxLen⟩

/-- The job of every command leaves keys, engines and stream within their ranges. -/
theorem fit_final {i : Instr} {s : State} {j : Job} (h : s.Fit) (hp : planOf i s = .go j) : j.final.Fit := by
  cases i
  case endc | nop => cases hp; exact h.congr rfl rfl rfl rfl
  case bclr | bmov | bxor | bdbl | ivq => cases of_gated hp; exact h.congr rfl rfl rfl rfl
  case bld => cases of_check (of_gated hp); exact h.congr rfl rfl rfl rfl
  case bst => cases of_check (of_gated hp); exact h.congr (by simp) (by simp) (by simp) (by simp)
  case ctrx =>
    cases of_check (of_check (of_check (of_gated hp)))
    exact h.congr (by simp) (by simp) (by simp) (by simp)
  case kimport => exact fit_kimport hp
  case kclear => cases hp; exact .of_cleared Keys.fit_cleared rfl rfl rfl
  case mreset => cases of_check (of_gated hp); exact ⟨h.keys, Acc.fit_macReset _ h.acc, h.nadLe, h.pfxLen⟩
  case mupdate => exact fit_mupdate h hp
  case mfinish => cases of_check (of_gated hp); exact ⟨h.keys, Acc.fit_macFinish _ _ h.acc, h.nadLe, h.pfxLen⟩
  case s2vinit =>
    cases of_check (of_gated hp)
    exact ⟨h.keys, Acc.fit_macReset _ h.acc, Nat.zero_le _, h.pfxLen⟩
  case s2vad => exact fit_s2vad h hp
  case s2vfin => cases of_check (of_check (of_check (of_gated hp))); exact h.idle rfl rfl rfl rfl
  case sivseal =>
    have hgo := of_gated hp
    split at hgo
    · cases hgo
    · cases of_check (of_check (of_check (of_check hgo)))
      exact fit_sealJob h _ _ _ (.inl rfl)
  case sivopen =>
    have hgo := of_gated hp
    split at hgo
    · cases hgo
    · cases of_check (of_check (of_check (of_check (of_check hgo))))
      exact fit_openJob h _ _ _ (.inl rfl)
  case aeadseal =>
    have hgo := of_gated hp
    split at hgo
    · cases hgo
    · cases of_check (of_check (of_check (of_check (of_check hgo))))
      exact fit_sealJob h _ _ _ (.inl rfl)
  case aeadopen =>
    have hgo := of_gated hp
    split at hgo
    · cases hgo
    · cases of_check (of_check (of_check (of_check (of_check (of_check hgo)))))
      exact fit_openJob h _ _ _ (.inl rfl)
  case stinit =>
    cases of_check (of_check (of_gated hp))
    exact ⟨h.keys, h.acc, h.nadLe, State.readBytes_length ..⟩
  case stseal chunk _ _ _ _ _ =>
    cases of_check (of_check (of_check (of_check (of_check (of_check (of_gated hp))))))
    exact fit_sealJob h _ _ _ (.inr ⟨chunk, rfl⟩)
  case stopen chunk _ _ _ _ _ =>
    cases of_check (of_check (of_check (of_check (of_check (of_check (of_check (of_gated hp)))))))
    exact fit_openJob h _ _ _ (.inr ⟨chunk, rfl⟩)

/-- An interrupted job leaves keys, engines and stream within their ranges. -/
theorem fit_interrupted {i : Instr} {s : State} {j : Job} (h : s.Fit) (hj : JobFacts i s j) : j.interrupted.Fit := by
  rw [interrupted_eq, hj.base, hj.zeroed]
  cases importsKey i with
  | true => exact ⟨Keys.fit_cleared, Acc.fit_cleared, lostS2v_nad_le _, by simp [Stream.cleared]⟩
  | false => exact ⟨h.keys, lostAcc_fit _, lostS2v_nad_le _, h.pfxLen⟩

/-! ### MEM and the pointers -/

/-- States with the same MEM and pointers. -/
theorem State.Placed.congr {s t : State} (h : s.Placed) (hm : t.mem = s.mem) (hc : t.cpc = s.cpc)
    (hp : t.cptr = s.cptr) : t.Placed := by
  obtain ⟨h1, h2, h3⟩ := h
  exact ⟨hm ▸ h1, hc ▸ h2, hp ▸ h3⟩

theorem moves_mod_four (i : Instr) : Instr.moves i % 4 = 0 := by
  unfold Instr.moves
  split
  · rfl
  · exact Nat.mul_mod_right 4 _

theorem aligned_add {c : Word} {n : Nat} (h : c.toNat % 4 = 0) (hn : n % 4 = 0) :
    (c + BitVec.ofNat 32 n).toNat % 4 = 0 := by
  simp only [BitVec.toNat_add, BitVec.toNat_ofNat]
  omega

theorem JobFacts.placed_final {i : Instr} {s : State} {j : Job} (hj : JobFacts i s j) (h : s.Placed) :
    j.final.Placed := by
  obtain ⟨v, -, -, hm⟩ := hj.written
  exact ⟨hm ▸ Memory.wf_writeBytes _ _ h.memWf, hj.cpc ▸ h.cpcAligned, hj.cptr ▸ h.cptrAligned⟩

theorem JobFacts.placed_interrupted {i : Instr} {s : State} {j : Job} (hj : JobFacts i s j) (h : s.Placed) :
    j.interrupted.Placed := by
  have hm : Memory.wf j.interrupted.mem = true :=
    Memory.wf_writeSome _ _ _ _ (by simpa [base_mem hj] using h.memWf)
  rw [interrupted_eq]
  exact ⟨hm, base_cpc hj ▸ h.cpcAligned, base_cptr hj ▸ h.cptrAligned⟩

/-! ### Errors and commands -/

/-- IRQEN, the outstanding request, the host's list and the list of completed commands are no part of the invariant. -/
theorem inv_of_irrelevant {s : State} (h : s.Inv) (irqen reqOut : Bool) (host : List HostAct) (past : List Word) :
    ({ s with irqen := irqen, reqOut := reqOut, host := host, past := past } : State).Inv := by
  obtain ⟨hfit, hplaced, hrec⟩ := (inv_iff s).1 h
  exact (inv_iff _).2 ⟨hfit.congr rfl rfl rfl rfl, hplaced.congr rfl rfl rfl, ⟨hrec.1, hrec.2, hrec.3⟩⟩

/-- The trap entry of a run with no outcome recorded (R466). -/
theorem State.Recorded.trap {s : State} (h : s.done = false) (e : Err) : (s.trap e).Recorded :=
  ⟨by simp, by simp [h], fun _ => e.code_ne_zero⟩

theorem inv_trap {s : State} (hf : s.Fit) (hp : s.Placed) (hd : s.done = false) (e : Err) : (s.trap e).Inv :=
  (inv_iff _).2 ⟨hf.congr rfl rfl rfl rfl, hp.congr rfl rfl rfl, .trap hd e⟩

/-- A job whose requests are granted keeps the invariant. -/
theorem inv_finish {i : Instr} {s : State} {j : Job} (h : s.Inv) (hb : s.busy = true) (hj : JobFacts i s j)
    (hp : planOf i s = .go j) : (j.finish (Instr.moves i)).Inv := by
  obtain ⟨hfit, hplaced, hrec⟩ := (inv_iff s).1 h
  have hfinal := fit_final hfit hp
  have hmem := hj.placed_final hplaced
  obtain ⟨hdone, herr, hcode, hpc⟩ := hrec.running hb
  cases hr : j.raises with
  | some e =>
    have hi : i ≠ .endc := by rintro rfl; cases hp; cases hr
    rw [Job.finish, hr]
    exact inv_trap (s := j.final.spend j.reqs) (hfinal.congr rfl rfl rfl rfl) (hmem.congr rfl rfl rfl)
      ((hj.done hi).trans hdone) e
  | none =>
    rw [Job.finish, hr]
    refine (inv_iff _).2 ⟨hfinal.congr rfl rfl rfl rfl,
      ⟨hmem.memWf, aligned_add hmem.cpcAligned (moves_mod_four i), hmem.cptrAligned⟩, ?_⟩
    by_cases hi : i = .endc
    · subst hi
      cases hp
      exact ⟨by simp, by simp [herr], by simp [herr]⟩
    · exact ⟨fun _ => by simp [hj.done hi, hj.err, hj.errcode, hj.errpc, hdone, herr, hcode, hpc],
        by simp [hj.err, herr], by simp [hj.err, herr]⟩

/-- Every command of a run keeps the invariant. -/
theorem inv_exec {i : Instr} {s t : State} (h : s.Inv) (hb : s.busy = true) (hexec : exec i s = .next t) : t.Inv := by
  obtain ⟨hfit, hplaced, hrec⟩ := (inv_iff s).1 h
  have hdone := (hrec.running hb).1
  rcases exec_cases hexec with ⟨e, u, hu, -, rfl⟩ | ⟨j, hj, hp, rfl⟩ | ⟨j, k, hj, -, -, rfl⟩ | rfl
  · rcases hu with ⟨rfl, -⟩ | ⟨rfl, -⟩
    · exact inv_trap hfit hplaced hdone e
    · exact inv_trap (s := s.endStream) ⟨hfit.keys, hfit.acc, hfit.nadLe, hfit.pfxLen⟩ (hplaced.congr rfl rfl rfl)
        hdone e
  · exact inv_finish h hb hj hp
  · have hd : j.interrupted.done = false := by rw [interrupted_eq]; exact (base_done hj).trans hdone
    exact inv_trap (s := j.interrupted.corrupted.spend (k + 1)) ((fit_interrupted hfit hj).congr rfl rfl rfl rfl)
      ((hj.placed_interrupted hplaced).congr rfl rfl rfl) hd _
  · exact inv_of_irrelevant h s.irqen true s.host s.past

/-! ### A step -/

theorem inv_moved {s t : State} (h : t.Inv) : (s.moved t).Inv := by
  rw [State.moved_eq]
  exact inv_of_irrelevant h t.irqen t.reqOut t.host _

theorem inv_turn {s t : State} (h : s.Inv) (ht : turn s = .next t) : t.Inv := by
  unfold turn at ht
  split at ht
  next hb =>
    split at ht
    next i _ =>
      cases hexec : exec i s with
      | next u =>
        rw [hexec] at ht
        cases ht
        exact inv_moved (inv_exec h hb hexec)
      | fault f => cases f
      | refused r => rw [hexec] at ht; cases ht
    · cases ht
      obtain ⟨hfit, hplaced, hrec⟩ := (inv_iff s).1 h
      exact inv_trap hfit hplaced (hrec.running hb).1 _
  · cases ht
    exact h

/-- Where an ABORT or a reset meets a run, keys, engines and stream are within their ranges and MEM is in place. -/
theorem fit_and_placed_metInRun {s : State} (hf : s.Fit) (hp : s.Placed) : s.metInRun.Fit ∧ s.metInRun.Placed := by
  rcases metInRun_cases s with h | ⟨i, j, -, -, hj, h⟩
  · rw [h]
    exact ⟨⟨hf.keys, lostAcc_fit _, lostS2v_nad_le _, hf.pfxLen⟩, hp.congr rfl rfl rfl⟩
  · rw [h]
    exact ⟨fit_interrupted hf hj, hj.placed_interrupted hp⟩

theorem metInRun_done (s : State) : s.metInRun.done = s.done := by
  rcases metInRun_cases s with h | ⟨i, j, -, -, hj, h⟩
  · rw [h]; rfl
  · rw [h, interrupted_eq]; exact base_done hj

/-- A state whose registers are those of a reset (R57). -/
theorem inv_of_reset {t : State} (hm : Memory.wf t.mem = true) (ht : t = { State.reset with
    mem := t.mem, epoch := t.epoch, answers := t.answers, reqs := t.reqs, draws := t.draws, host := t.host }) :
    t.Inv := by
  rw [ht]
  exact (inv_iff _).2 ⟨.of_cleared Keys.fit_cleared rfl rfl rfl, ⟨hm, rfl, rfl⟩, ⟨by simp [State.reset],
    by simp [State.reset], by simp [State.reset]⟩⟩

theorem inv_softReset {s : State} (h : s.Inv) : s.softReset.Inv := by
  obtain ⟨hfit, hplaced, -⟩ := (inv_iff s).1 h
  refine inv_of_reset ?_ rfl
  unfold State.softReset
  dsimp only
  split
  · exact (fit_and_placed_metInRun hfit hplaced).2.memWf
  · exact h.memWf

theorem inv_abort {s : State} (h : s.Inv) (hb : s.busy = true) : s.abort.Inv := by
  obtain ⟨hfit, hplaced, hrec⟩ := (inv_iff s).1 h
  obtain ⟨hf, hp⟩ := fit_and_placed_metInRun hfit hplaced
  exact inv_trap (hf.congr (by simp) (by simp) (by simp) (by simp)) (hp.congr (by simp) (by simp) (by simp))
    (by simp [metInRun_done, (hrec.running hb).1]) _

theorem inv_startRun {s : State} (h : s.Inv) : s.startRun.Inv := by
  obtain ⟨hfit, hplaced, -⟩ := (inv_iff s).1 h
  exact (inv_iff _).2 ⟨hfit.congr rfl rfl rfl rfl, ⟨hplaced.memWf, hplaced.cptrAligned, hplaced.cptrAligned⟩,
    ⟨by simp, by simp, by simp⟩⟩

theorem inv_writeCtrl {s : State} (v : Word) (h : s.Inv) : (s.writeCtrl v).Inv := by
  have hi : ({ s with irqen := v.getLsbD 8 } : State).Inv := inv_of_irrelevant h _ s.reqOut s.host s.past
  unfold State.writeCtrl State.ctrlAction
  split_ifs with _ hb
  · exact inv_softReset h
  · exact inv_abort hi hb
  · exact hi
  · exact inv_startRun hi
  · exact hi

theorem inv_writeStatus {s : State} (v : Word) (h : s.Inv) : (s.writeStatus v).Inv := by
  unfold State.writeStatus
  split
  · exact h
  next hb =>
    obtain ⟨hfit, hplaced, hrec⟩ := (inv_iff s).1 h
    refine (inv_iff _).2 ⟨hfit.congr rfl rfl rfl rfl, hplaced.congr rfl rfl rfl, ⟨fun hb' => absurd hb' hb, ?_, ?_⟩⟩
    · have := hrec.oneOutcome
      simp only [Bool.and_eq_true]
      tauto
    · have := hrec.errCode
      simp only [Bool.and_eq_true]
      tauto

/-- Dropping bits 1:0 of a word takes it down to a multiple of 4. -/
theorem toNat_and_alignMask (v : Word) : (v &&& 0xFFFFFFFC#32).toNat = v.toNat - v.toNat % 4 := by
  have hshift : v &&& 0xFFFFFFFC#32 = (v >>> 2) <<< 2 := by
    rw [show 0xFFFFFFFC#32 = BitVec.allOnes 32 <<< 2 by decide]
    refine BitVec.eq_of_getLsbD_eq fun j hj => ?_
    simp only [BitVec.getLsbD_and, BitVec.getLsbD_shiftLeft, BitVec.getLsbD_allOnes, BitVec.getLsbD_ushiftRight]
    grind
  have hv := v.isLt
  rw [hshift, BitVec.toNat_shiftLeft, BitVec.toNat_ushiftRight, Nat.shiftRight_eq_div_pow, Nat.shiftLeft_eq]
  omega

theorem inv_writeCptr {s : State} (v : Word) (h : s.Inv) : (s.writeCptr v).Inv := by
  unfold State.writeCptr
  split
  · exact h
  · obtain ⟨hfit, hplaced, hrec⟩ := (inv_iff s).1 h
    exact (inv_iff _).2 ⟨hfit.congr rfl rfl rfl rfl, ⟨hplaced.memWf, hplaced.cpcAligned, by
      simp only [toNat_and_alignMask]; omega⟩, ⟨hrec.1, hrec.2, hrec.3⟩⟩

theorem inv_mmioWrite {s : State} (off : Nat) (v : Word) (h : s.Inv) : (s.mmioWrite off v).Inv := by
  unfold State.mmioWrite
  split
  · exact inv_writeCtrl v h
  · exact inv_writeStatus v h
  · exact inv_writeCptr v h
  · exact h

theorem inv_setByte {s : State} (a : Nat) (b : Byte) (h : s.Inv) : (s.setByte a b).Inv := by
  obtain ⟨hfit, hplaced, hrec⟩ := (inv_iff s).1 h
  refine (inv_iff _).2 ⟨hfit.congr (by simp) (by simp) (by simp) (by simp),
    ⟨Memory.wf_setByte a b h.memWf, by simpa using h.cpcAligned, by simpa using h.cptrAligned⟩, ?_⟩
  rw [State.setByte_eq]
  exact ⟨hrec.1, hrec.2, hrec.3⟩

/-- Every action of the host keeps the invariant. -/
theorem inv_hostAct {s : State} (a : HostAct) (h : s.Inv) : (s.hostAct a).Inv := by
  cases a with
  | quiet => exact h
  | mmioWrite width off v =>
    simp only [State.hostAct]
    split
    · exact inv_mmioWrite off v h
    · exact h
  | memWrite a b =>
    simp only [State.hostAct]
    split
    · exact h
    · exact inv_setByte a b h
  | hardReset => exact inv_of_reset rfl rfl

/-- Settles O6: no register of a reset state is out of its range. -/
theorem resetMeetsInv : Obligations.ResetMeetsInv := inv_of_reset rfl rfl

/-- Settles O7: an action of the host, an error or a command, each keeps it. -/
theorem stepKeepsInv : Obligations.StepKeepsInv := by
  unfold Obligations.StepKeepsInv
  intro s t h hstep
  unfold step at hstep
  split at hstep
  · exact inv_turn h hstep
  · exact inv_turn (inv_of_irrelevant h s.irqen s.reqOut _ s.past) hstep
  · cases hstep
    exact inv_hostAct _ (inv_of_irrelevant h s.irqen s.reqOut _ s.past)

end Sys2Proof.Machine

/-!
PROOFS. Rules over every command: how a command in a run can end (40_sequencer.md R181 to R189), what it leaves alone
(10_state.md R32, R41, R48; 20_memory.md R108; 42_cmac.md R231), and the stream counter (47_stream.md R425).
-/

namespace Sys2Proof.Machine

/-! ### Outcomes (R181, R189) -/

/-- Every command answers a next state. -/
theorem exec_next (i : Instr) (s : State) : ∃ t, exec i s = .next t := by
  rw [exec_eq_runPlan]
  unfold runPlan
  split
  · exact ⟨_, rfl⟩
  · split <;> exact ⟨_, rfl⟩

/-- A command's words are its header and its operand words (R140). -/
theorem moves_of_ne_endc {i : Instr} (h : i ≠ .endc) : Instr.moves i = 4 * (1 + i.operands.length) := by
  cases i with
  | endc => exact absurd rfl h
  | _ => rfl

theorem exec_endc (s : State) : exec .endc s = .next { s with busy := false, done := true } := by
  have hp : planOf .endc s = .go (Job.plain s { s with busy := false, done := true }) := rfl
  rw [exec_of_plan_plain hp]
  simp [State.advance, Instr.moves]

theorem exec_nop (s : State) : exec .nop s = .next { s with cpc := s.cpc + 4#32 } :=
  exec_of_plan_plain (i := .nop) (t := s) rfl

/-- Settles O11: both have no check and make no request. -/
theorem endEndsRunAndNopAdvances : Obligations.EndEndsRunAndNopAdvances := by
  unfold Obligations.EndEndsRunAndNopAdvances
  exact ⟨rfl, rfl, fun s => ⟨exec_endc s, exec_nop s⟩⟩

/-- A trap entry, as an outcome of a command in a run. -/
theorem trap_outcome {u : State} {c : Word} (e : Err) (hd : u.done = false) (hc : u.cpc = c) :
    (u.trap e).busy = false ∧ (u.trap e).done = false ∧ (u.trap e).err = true ∧ (u.trap e).cpc = c ∧
      (u.trap e).errpc = c ∧ ∃ e' : Err, (u.trap e).errcode = e'.code := ⟨rfl, hd, rfl, hc, hc, e, rfl⟩

/-- Settles O54: END apart, a command ends in the trap entry, waits, or leaves its job's final state past itself. -/
theorem commandOutcomes : Obligations.CommandOutcomes := by
  unfold Obligations.CommandOutcomes
  intro i s hb hd he hcode hpc
  obtain ⟨t, hexec⟩ := exec_next i s
  refine ⟨t, hexec, ?_⟩
  by_cases hi : i = .endc
  · subst hi
    cases (exec_endc s).symm.trans hexec
    exact .inr (.inr (.inl ⟨rfl, rfl⟩))
  rcases exec_cases hexec with ⟨e, u, hu, -, rfl⟩ | ⟨j, hj, hp, rfl⟩ | ⟨j, k, hj, -, -, rfl⟩ | rfl
  · refine .inr (.inr (.inr ?_))
    rcases hu with ⟨rfl, -⟩ | ⟨rfl, -⟩
    · exact trap_outcome e hd rfl
    · exact trap_outcome (u := s.endStream) e hd rfl
  · cases hr : j.raises with
    | some e =>
      rw [Job.finish, hr]
      exact .inr (.inr (.inr (trap_outcome (u := j.final.spend j.reqs) e ((hj.done hi).trans hd) hj.cpc)))
    | none =>
      rw [finish_eq_none hr]
      refine .inl ⟨hi, (hj.busy hi).trans hb, (hj.done hi).trans hd, hj.err.trans he, hj.errcode.trans hcode,
        hj.errpc.trans hpc, ?_⟩
      rw [← moves_of_ne_endc hi, ← hj.cpc]
  · have hdone : j.interrupted.done = false := by rw [interrupted_eq]; exact (base_done hj).trans hd
    have hcpc : j.interrupted.cpc = s.cpc := by rw [interrupted_eq]; exact base_cpc hj
    exact .inr (.inr (.inr (trap_outcome (u := j.interrupted.corrupted.spend (k + 1)) _ hdone hcpc)))
  · exact .inr (.inl rfl)

/-! ### CORRUPT (R189) -/

/-- Every command but END, NOP, KCLEAR and KIMPORT looks at CORRUPT before any check of its own. -/
theorem planOf_of_corrupt {i : Instr} {s : State} (h : s.corrupt = true) (hi : runsCorrupt i = false) :
    planOf i s = .stop .corruptState s := by
  cases i with
  | endc | nop | kclear | kimport => cases hi
  | _ => exact gated_corrupt h _

/-- KIMPORT's one error at a check is ADDR, and END, NOP and KCLEAR have none. -/
theorem stop_of_runsCorrupt {i : Instr} {s u : State} {e : Err} (hi : runsCorrupt i = true)
    (hp : planOf i s = .stop e u) : e = .addr := by
  cases i with
  | kimport mode addr len =>
    have hp : planKimport mode addr len s = .stop e u := hp
    unfold planKimport at hp
    split at hp
    · cases hp; rfl
    · dsimp only at hp
      split at hp <;> cases hp
  | endc | nop | kclear => cases hp
  | _ => cases hi

/-- Settles O51: the gate stands before every check of the other commands, and the four do not pass it. -/
theorem corruptStateGate : Obligations.CorruptStateGate := by
  unfold Obligations.CorruptStateGate
  intro i s hc
  refine ⟨fun hi => exec_of_plan_stop (planOf_of_corrupt hc hi), fun hi hzero t hexec hcode => ?_⟩
  have hne : s.errcode ≠ Err.corruptState.code := by rw [hzero]; decide
  rcases exec_cases hexec with ⟨e, u, -, hp, rfl⟩ | ⟨j, hj, -, rfl⟩ | ⟨j, k, -, -, -, rfl⟩ | rfl
  · rw [stop_of_runsCorrupt hi hp] at hcode
    cases hcode
  · rcases hj.finish_errcode (Instr.moves i) with hsame | ⟨e, hr, hfin⟩
    · exact hne (hsame.symm.trans hcode)
    · obtain rfl : e = .corruptState := Err.code_injective ((congrArg State.errcode hfin).symm.trans hcode)
      rcases hj.raises with h | ⟨h, -⟩ | ⟨h, -⟩ <;> cases h.symm.trans hr
  · cases hcode
  · exact hne hcode

/-! ### What a command leaves alone -/

theorem StopFacts.frame {i : Instr} {s u : State} {e : Err} (h : StopFacts i s e u) :
    u = { s with stream := u.stream } := by
  rcases h with ⟨rfl, -⟩ | ⟨rfl, -⟩ <;> rfl

theorem interrupted_br {i : Instr} {s : State} {j : Job} (hj : JobFacts i s j) {r : BReg} (hr : target i ≠ some r) :
    j.interrupted.br.get r = s.br.get r := by
  rw [interrupted_eq]
  dsimp only
  split
  · rw [base_br hj]
  next q hq =>
    have hne : r ≠ q := fun h => hr (by rw [← hj.reg, hq, h])
    rw [BRegs.get_set_other _ _ _ _ hne, base_br hj]

/-- Settles O56: a job, finished or interrupted, writes only the register it names. -/
theorem blockRegisterFrame : Obligations.BlockRegisterFrame := by
  unfold Obligations.BlockRegisterFrame
  intro i s t r hexec hr
  rcases exec_cases hexec with ⟨e, u, hu, -, rfl⟩ | ⟨j, hj, -, rfl⟩ | ⟨j, k, hj, -, -, rfl⟩ | rfl
  · rw [hu.frame]; rfl
  · exact (congrArg (BRegs.get · r) (by unfold Job.finish; split <;> rfl)).trans (hj.br r hr)
  · rw [fail_eq]; exact interrupted_br hj hr
  · rfl

/-- A finished job writes only its destination. -/
theorem finish_outside {i : Instr} {s : State} {j : Job} (hj : JobFacts i s j) (n : Nat) {a : Nat} (ha : outside i a) :
    (j.finish n).byteAt a = s.byteAt a := by
  obtain ⟨v, hv, -, hm⟩ := hj.written
  have hout : a < j.dst ∨ j.dst + v.length ≤ a := by rw [hv, hj.dst, hj.len]; exact ha
  rw [← State.byteAt_writeBytes_outside s j.dst a v hout]
  refine State.byteAt_congr ?_ ?_ a
  · unfold Job.finish; split <;> exact hm
  · rw [State.writeBytes_epoch]; unfold Job.finish; split <;> exact hj.epoch

/-- Settles O57: a job, finished or interrupted, writes only its destination. -/
theorem memoryFrame : Obligations.MemoryFrame := by
  unfold Obligations.MemoryFrame
  intro i s t a hexec ha
  rcases exec_cases hexec with ⟨e, u, hu, -, rfl⟩ | ⟨j, hj, -, rfl⟩ | ⟨j, k, hj, -, -, rfl⟩ | rfl
  · rw [hu.frame]; rfl
  · exact finish_outside hj _ ha
  · rw [fail_eq]; exact interrupted_outside hj ha
  · rfl

theorem importsKey_of_writesStream {i : Instr} (h : writesStream i = false) : importsKey i = false := by
  cases i with
  | kimport => cases h
  | _ => rfl

theorem importsKey_of_restartsStream {i : Instr} (h : restartsStream i = false) : importsKey i = false := by
  cases i with
  | kimport => cases h
  | _ => rfl

/-- The request base of a command that imports no key is the state itself. -/
theorem JobFacts.base_eq {i : Instr} {s : State} {j : Job} (hj : JobFacts i s j) (h : importsKey i = false) :
    j.base = s := by rw [hj.base, h]; rfl

theorem finish_frame (j : Job) (n : Nat) : (j.finish n).keys = j.final.keys ∧ (j.finish n).stream = j.final.stream ∧
    (j.finish n).cptr = j.final.cptr ∧ (j.finish n).irqen = j.final.irqen := by
  unfold Job.finish
  split <;> exact ⟨rfl, rfl, rfl, rfl⟩

theorem fail_frame (j : Job) (k : Nat) : (j.fail k).keys = j.base.keys ∧ (j.fail k).stream = j.base.stream ∧
    (j.fail k).cptr = j.base.cptr ∧ (j.fail k).irqen = j.base.irqen := by
  rw [fail_eq, interrupted_eq]
  exact ⟨rfl, rfl, rfl, rfl⟩

/-- Settles O55: KIMPORT's and KCLEAR's jobs alone touch keys, and the stream commands' the stream. -/
theorem keyAndControlFrame : Obligations.KeyAndControlFrame := by
  unfold Obligations.KeyAndControlFrame
  intro i s t hexec
  rcases exec_cases hexec with ⟨e, u, hu, -, rfl⟩ | ⟨j, hj, -, rfl⟩ | ⟨j, k, hj, -, -, rfl⟩ | rfl
  · rcases hu with ⟨rfl, -⟩ | ⟨rfl, -, -, hw, -⟩
    · exact ⟨fun _ _ => rfl, fun _ => rfl, rfl, rfl⟩
    · exact ⟨fun _ _ => rfl, fun h => (by rw [hw] at h; cases h), rfl, rfl⟩
  · obtain ⟨hk, hs, hp, hq⟩ := finish_frame j (Instr.moves i)
    exact ⟨fun h h' => hk.trans (hj.keys h h'), fun h => hs.trans (hj.stream h), hp.trans hj.cptr, hq.trans hj.irqen⟩
  · obtain ⟨hk, hs, hp, hq⟩ := fail_frame j k
    exact ⟨fun h _ => hk.trans (congrArg State.keys (hj.base_eq h)),
      fun h => hs.trans (congrArg State.stream (hj.base_eq (importsKey_of_writesStream h))), hp.trans (base_cptr hj),
      hq.trans (base_irqen hj)⟩
  · exact ⟨fun _ _ => rfl, fun _ => rfl, rfl, rfl⟩

/-! ### The stream counter (R425) -/

theorem toNat_add_one {c : Word} (h : c ≠ 0xFFFFFFFF#32) : (c + 1#32).toNat = c.toNat + 1 := by
  have hne : c.toNat ≠ 0xFFFFFFFF := fun h' => h (BitVec.eq_of_toNat_eq h')
  have hlt := c.isLt
  rw [BitVec.toNat_add]
  exact Nat.mod_eq_of_lt (by simp; omega)

/-- Settles O50: only a chunk that is not the last moves the counter, in an ACTIVE stream, and never at its last
value. -/
theorem streamCounterNeverWraps : Obligations.StreamCounterNeverWraps := by
  unfold Obligations.StreamCounterNeverWraps
  intro i s t hi hexec
  rcases exec_cases hexec with ⟨e, u, hu, -, rfl⟩ | ⟨j, hj, -, rfl⟩ | ⟨j, k, hj, -, -, rfl⟩ | rfl
  · rcases hu with ⟨rfl, -⟩ | ⟨rfl, -⟩ <;> exact .inl rfl
  · rw [(finish_frame j (Instr.moves i)).2.1]
    rcases hj.ctr hi with h | ⟨hs, hf, hne, hc⟩
    · exact .inl h
    · exact .inr ⟨by rw [hc, toNat_add_one hne], hs, hf⟩
  · have hbase := hj.base_eq (importsKey_of_restartsStream hi)
    exact .inl (by rw [(fail_frame j k).2.1, hbase])
  · exact .inl rfl

theorem be32_injective {c c' : Word} (h : be32 c = be32 c') : c = c' := by
  have hw : wordBytes c = wordBytes c' := h
  simp only [wordBytes, List.cons.injEq, and_true] at hw
  obtain ⟨h3, h2, h1, h0⟩ := hw
  rw [← beword_wordBytes c, h3, h2, h1, h0, beword_wordBytes]

/-- Settles O49: the counter and the last mark stand at fixed places of a nonce. -/
theorem chunkNoncesDiffer : Obligations.ChunkNoncesDiffer := by
  unfold Obligations.ChunkNoncesDiffer
  intro pfx c c' l l' h
  unfold streamNonce at h
  obtain ⟨hfront, hmark⟩ := List.append_inj h (by simp [be32])
  refine ⟨be32_injective (List.append_cancel_left hfront), ?_⟩
  cases l <;> cases l' <;> simp at hmark ⊢

end Sys2Proof.Machine

/-!
PROOFS. A fetch and the step that follows it (40_sequencer.md R181, R477), the words that the spec writes out, and the
trap entry with its codes (60_exceptions.md R460, R466).
-/

namespace Sys2Proof

/-! ### Strings that are too short to decode (R181) -/

theorem takeWord_eq_none {bs : List Byte} (h : bs.length < 4) : takeWord bs = none := by
  cases hw : takeWord bs with
  | none => rfl
  | some p =>
    have hlen := congrArg List.length (takeWord_eq_some_iff.1 hw)
    simp [wordBytes] at hlen
    omega

theorem takeWords_eq_none {n : Nat} {bs : List Byte} (h : bs.length < 4 * n) : takeWords n bs = none := by
  cases hw : takeWords n bs with
  | none => rfl
  | some p =>
    obtain ⟨hn, hbs⟩ := of_takeWords (ws := p.1) (rest := p.2) hw
    have hwords : (p.1.flatMap wordBytes).length = 4 * n := by
      have hword : ∀ w : Word, (wordBytes w).length = 4 := fun _ => rfl
      simp [List.length_flatMap, hword, hn, Nat.mul_comm]
    have hlen := congrArg List.length hbs
    rw [List.length_append, hwords] at hlen
    omega

/-- Settles O1: each is the decoder run on fixed bytes. -/
theorem specWordsDecode : Obligations.SpecWordsDecode :=
  ⟨rfl, rfl, rfl, rfl, rfl, rfl, rfl, rfl, rfl, rfl, rfl, rfl⟩

end Sys2Proof

namespace Sys2Proof.Machine

/-! ### A fetch that reaches past MEM (R102, R181) -/

theorem fetch_of_no_header {s : State} (h : Config.memSize < s.cpc.toNat + 4) : s.fetch = .error .fetch := by
  have hlen : s.window.length < 4 := by rw [State.window, State.readBytes_length]; omega
  simp [State.fetch, decode, takeWord_eq_none hlen, fetchErr]

theorem fetch_of_no_operands {s : State} {o : Op} {f : Fields} (hpc : s.cpc.toNat + 4 ≤ Config.memSize)
    (hd : decodeHeader (s.word s.cpc.toNat) = some (o, f)) (h : Config.memSize < s.cpc.toNat + 4 + 4 * o.k) :
    s.fetch = .error .fetch := by
  have hlen : (s.readBytes (s.cpc.toNat + 4) (min maxBytes (Config.memSize - s.cpc.toNat) - 4)).length < 4 * o.k := by
    rw [State.readBytes_length]; omega
  simp [State.fetch, decode, State.takeWord_window hpc, hd, takeWords_eq_none hlen, fetchErr]

/-- Settles O9: the window that a fetch reads ends with MEM. -/
theorem fetchOutsideMemTraps : Obligations.FetchOutsideMemTraps := by
  unfold Obligations.FetchOutsideMemTraps
  exact fun s hhost hbusy => ⟨fun h => step_of_fetch_error hhost hbusy (fetch_of_no_header h),
    fun o f hpc hd h => step_of_fetch_error hhost hbusy (fetch_of_no_operands hpc hd h)⟩

/-! ### The sequencer's turn (R181, R477) -/

/-- What the host does next is no part of what a fetch reads. -/
theorem window_of_host (s : State) (l : List HostAct) : ({ s with host := l } : State).window = s.window :=
  (⟨rfl, rfl, rfl, rfl, rfl⟩ : SameData s { s with host := l }).readBytes _ _

/-- The turn of a run whose fetch gives a command is that command, its address noted. -/
theorem turn_of_decode {s : State} {i : Instr} {rest : Bytes} (hb : s.busy = true)
    (hd : decode s.window = .ok (i, rest)) :
    ∃ t, exec i s = .next t ∧
      turn s = .next { t with past := if t.busy = true ∧ t.cpc ≠ s.cpc then s.cpc :: t.past else t.past } := by
  obtain ⟨t, hexec⟩ := exec_next i s
  have hf : s.fetch = .ok i := by simp [State.fetch, hd]
  refine ⟨t, hexec, ?_⟩
  rw [turn, if_pos hb, hf, ← State.moved_past, ← State.moved_eq]
  simp [hexec, State.noted]

/-- Settles O8: with the host quiet a step is the sequencer's turn. -/
theorem stepRunsDecodedCommand : Obligations.StepRunsDecodedCommand := by
  unfold Obligations.StepRunsDecodedCommand
  intro s later
  have hnone : s.host = [] → step s = turn s := fun h => by rw [step, h]
  have hquiet : s.host = .quiet :: later → step s = turn { s with host := later } := fun h => by rw [step, h]
  refine ⟨fun i rest hb hd => ⟨fun h => ?_, fun h => ?_⟩, fun hb => ⟨fun h => ?_, fun h => ?_⟩⟩
  · rw [hnone h]
    exact turn_of_decode hb hd
  · rw [hquiet h]
    exact turn_of_decode (s := { s with host := later }) hb ((window_of_host s later).symm ▸ hd)
  · rw [hnone h, turn]
    simp [hb]
  · rw [hquiet h, turn]
    simp [hb]

/-- Settles O10: the record and the codes, as the definitions give them. -/
theorem trapEntryRecordsError : Obligations.TrapEntryRecordsError := by
  unfold Obligations.TrapEntryRecordsError
  exact ⟨fun _ _ => rfl, rfl, rfl⟩

end Sys2Proof.Machine

/-!
PROOFS. Interrupted commands (60_exceptions.md R464; 10_state.md R59; 70_reset_and_hazards.md R502): what a
PROVIDER_FAULT, an ABORT or a soft reset may leave of the command it met, and what the resets leave in every register.
-/

namespace Sys2Proof.Machine

open Sys2Proof.Spec

/-! ### What an interrupted command may leave in MEM (R464 points 5 and 6) -/

/-- An address outside a job's destination, or the place of one of its bytes. -/
theorem JobFacts.outside_or_inside {i : Instr} {s : State} {j : Job} (hj : JobFacts i s j) (a : Nat) :
    outside i a ∨ ∃ k, k < j.bytes.length ∧ a = j.dst + k := by
  by_cases h : outside i a
  · exact .inl h
  · refine .inr ⟨a - j.dst, ?_⟩
    rw [hj.len, hj.dst]
    unfold outside at h
    omega

/-- Where a state has the data of another, a command that completes in it writes the string of the other's job. -/
theorem SameData.completed_bytes {i : Instr} {s s' u : State} {j : Job} (h : SameData s s') (hp : planOf i s = .go j)
    (ho : opensMessage i = false) (hexec : exec i s' = .next u) (he : u.err = s'.err) (hc : u.cpc ≠ s'.cpc) {k : Nat}
    (hk : k < j.bytes.length) : u.byteAt (j.dst + k) = j.bytes[k] := by
  have hj := planFacts i s
  have hj' := planFacts i s'
  rw [hp] at hj
  cases hp' : planOf i s' with
  | stop e v =>
    rw [hp'] at hj'
    cases (exec_of_plan_stop hp').symm.trans hexec
    exact absurd (congrArg State.cpc (StopFacts.frame hj')) hc
  | go j' =>
    rw [hp'] at hj'
    have hbytes := h.bytes hp hp'
    have hdst : j'.dst = j.dst := (JobFacts.dst hj').trans (JobFacts.dst hj).symm
    have hval := completed_inside hp' ho hexec he hc (k := k) (hbytes ▸ hk)
    rw [hdst] at hval
    simpa only [hbytes] using hval

/-- What an interruption of the job leaves in MEM, for a state with the data of the one that was interrupted. -/
theorem SameData.partlyWritten_interrupted {i : Instr} {s s' : State} {j : Job} (h : SameData s s')
    (hp : planOf i s' = .go j) : PartlyWritten i s j.interrupted := by
  have hj : JobFacts i s' j := by have h := planFacts i s'; rwa [hp] at h
  have hb : ∀ a, s'.byteAt a = s.byteAt a := State.byteAt_congr h.mem h.epoch
  refine ⟨fun a ha => (interrupted_outside hj ha).trans (hb a), fun ho a => ?_, fun ho answers u hexec he hc a => ?_⟩
  all_goals
    rw [← hb a]
    rcases hj.outside_or_inside a with ha | ⟨k, hk, rfl⟩
    · exact .inl (interrupted_outside hj ha)
  · exact (interrupted_inside hj hk).imp_right (·.trans (hj.zeros ho _ (List.getElem_mem hk)))
  · have hdata : SameData s' { s with answers := answers } :=
      ⟨h.mem.symm, h.epoch.symm, h.br.symm, h.keys.symm, h.stream.symm⟩
    rw [hdata.completed_bytes hp ho hexec he hc hk]
    exact interrupted_inside hj hk

theorem partlyWritten_of_unchanged {s t : State} (i : Instr) (ht : ∀ a, t.byteAt a = s.byteAt a) :
    PartlyWritten i s t := ⟨fun a _ => ht a, fun _ a => .inl (ht a), fun _ _ _ _ _ _ a => .inl (ht a)⟩

/-- Only the bytes of MEM count. -/
theorem partlyWritten_congr {i : Instr} {s t t' : State} (h : PartlyWritten i s t)
    (ht : ∀ a, t'.byteAt a = t.byteAt a) :
    PartlyWritten i s t' := by
  have he : t'.byteAt = t.byteAt := funext ht
  unfold PartlyWritten at h ⊢
  rwa [he]

theorem SameData.refl (s : State) : SameData s s := ⟨rfl, rfl, rfl, rfl, rfl⟩

/-! ### PROVIDER_FAULT (R464, R59) -/

/-- PROVIDER_FAULT is raised where a request failed, and nowhere else. -/
theorem exec_providerFault {i : Instr} {s t : State} (hzero : s.errcode = 0#8) (hexec : exec i s = .next t)
    (hcode : t.errcode = Err.providerFault.code) :
    ∃ j k, JobFacts i s j ∧ planOf i s = .go j ∧ t = j.fail k := by
  have hne : s.errcode ≠ Err.providerFault.code := by rw [hzero]; decide
  rcases exec_cases hexec with ⟨e, u, hu, -, rfl⟩ | ⟨j, hj, -, rfl⟩ | ⟨j, k, hj, hp, -, rfl⟩ | rfl
  · obtain rfl : e = .providerFault := Err.code_injective hcode
    rcases hu with ⟨-, h⟩ | ⟨-, h, -⟩ <;> cases h
  · rcases hj.finish_errcode (Instr.moves i) with hsame | ⟨e, hr, hfin⟩
    · exact absurd (hsame.symm.trans hcode) hne
    · obtain rfl : e = .providerFault := Err.code_injective ((congrArg State.errcode hfin).symm.trans hcode)
      rcases hj.raises with h | ⟨h, -⟩ | ⟨h, -⟩ <;> cases h.symm.trans hr
  · exact ⟨j, k, hj, hp, rfl⟩
  · exact absurd hcode hne

/-- Keys, stream and engines of an interrupted job (R464 points 3 and 4, R59). -/
theorem interrupted_keys {i : Instr} {s : State} {j : Job} (hj : JobFacts i s j) :
    (importsKey i = false → j.interrupted.keys = s.keys ∧ j.interrupted.stream = s.stream) ∧
    (importsKey i = true → j.interrupted.keys = Keys.cleared ∧ j.interrupted.stream = Stream.cleared ∧
      j.interrupted.acc = Acc.cleared ∧ j.interrupted.s2v.d = 0#128) := by
  rw [interrupted_eq]
  refine ⟨fun h => ?_, fun h => ?_⟩
  · rw [hj.base_eq h]
    exact ⟨rfl, rfl⟩
  · rw [hj.zeroed, hj.base, h]
    exact ⟨rfl, rfl, rfl, rfl⟩

/-- Settles O53: a failed request leaves the interrupted job, CORRUPT set, with the trap record. -/
theorem providerFaultEffects : Obligations.ProviderFaultEffects := by
  unfold Obligations.ProviderFaultEffects
  intro i s t hzero hexec hcode
  obtain ⟨j, k, hj, hp, rfl⟩ := exec_providerFault hzero hexec hcode
  obtain ⟨hkeep, hclear⟩ := interrupted_keys hj
  have hcpc : j.interrupted.cpc = s.cpc := by rw [interrupted_eq]; exact base_cpc hj
  exact ⟨rfl, rfl, rfl, hcpc, hcpc, hkeep, hclear, fun r hr => interrupted_br hj hr,
    partlyWritten_congr ((SameData.refl s).partlyWritten_interrupted hp) fun _ => rfl⟩

/-! ### A run met by an ABORT or a reset (R187, R502) -/

/-- The fields that no interruption touches. -/
theorem metInRun_frame (s : State) : s.metInRun.cpc = s.cpc ∧ s.metInRun.done = s.done ∧ s.metInRun.cptr = s.cptr ∧
    s.metInRun.irqen = s.irqen ∧ s.metInRun.host = s.host ∧ s.metInRun.epoch = s.epoch := by
  rcases metInRun_cases s with h | ⟨i, j, -, -, hj, h⟩
  · rw [h]
    exact ⟨rfl, rfl, rfl, rfl, rfl, rfl⟩
  · rw [h, interrupted_eq]
    refine ⟨base_cpc hj, base_done hj, base_cptr hj, base_irqen hj, ?_, base_epoch hj⟩
    rw [hj.base]
    split <;> rfl

/-- What R464 allows at the point where a run is met, with command `i` at CPC. -/
def MetCommand (i : Instr) (s t : State) : Prop :=
  (importsKey i = false → t.keys = s.keys ∧ t.stream = s.stream) ∧
  (importsKey i = true →
    (t.keys = s.keys ∧ t.stream = s.stream) ∨
    (t.keys = Keys.cleared ∧ t.stream = Stream.cleared ∧ t.acc = Acc.cleared ∧ t.s2v.d = 0#128)) ∧
  (∀ r, target i ≠ some r → t.getBr r = s.getBr r) ∧ PartlyWritten i s t

theorem SameData.metCommand {i : Instr} {s s' : State} (h : SameData s s') (hf : s'.fetch = .ok i) :
    MetCommand i s s'.metInRun := by
  rcases metInRun_cases s' with hm | ⟨i', j, hf', hp, hj, hm⟩
  · rw [hm]
    exact ⟨fun _ => ⟨h.keys, h.stream⟩, fun _ => .inl ⟨h.keys, h.stream⟩, fun r _ => congrArg (BRegs.get · r) h.br,
      partlyWritten_of_unchanged i (State.byteAt_congr h.mem h.epoch)⟩
  · cases hf.symm.trans hf'
    obtain ⟨hkeep, hclear⟩ := interrupted_keys hj
    rw [hm]
    refine ⟨fun hi => ?_, fun hi => .inr (hclear hi), fun r hr => ?_, h.partlyWritten_interrupted hp⟩
    · rw [(hkeep hi).1, (hkeep hi).2]
      exact ⟨h.keys, h.stream⟩
    · exact (interrupted_br hj hr).trans (congrArg (BRegs.get · r) h.br)

/-- Where no command can be fetched a run is met at the boundary (R463). -/
theorem metInRun_of_fetch_error {s : State} {e : Err} (hf : s.fetch = .error e) : s.metInRun = s.atBoundary := by
  rcases metInRun_cases s with h | ⟨i, j, hf', -⟩
  · exact h
  · cases hf.symm.trans hf'

/-- A step in which the host's list names an action is that action (R30). -/
theorem step_of_hostAct {s : State} {a : HostAct} {later : List HostAct} (h : s.host = a :: later)
    (ha : a ≠ .quiet) : step s = .next (State.hostAct { s with host := later } a) := by
  rw [step, h]
  cases a with
  | quiet => exact absurd rfl ha
  | mmioWrite | memWrite | hardReset => rfl

theorem step_of_writeCtrl {s : State} {v : Word} {later : List HostAct} (h : s.host = .mmioWrite 4 0x04 v :: later) :
    step s = .next (State.writeCtrl { s with host := later } v) := step_of_hostAct h HostAct.noConfusion

/-- A CTRL write of ABORT without SRESET during a run is ABORT, whatever GO is (R45, R507). -/
theorem step_of_abort {s : State} {v : Word} {later : List HostAct} (h : s.host = .mmioWrite 4 0x04 v :: later)
    (hb : s.busy = true) (h1 : v.getLsbD 1 = false) (h2 : v.getLsbD 2 = true) :
    step s = .next (State.abort { s with host := later, irqen := v.getLsbD 8 }) := by
  rw [step_of_writeCtrl h, State.writeCtrl, h1, State.ctrlAction]
  simp [hb, h2]

theorem step_of_sreset {s : State} {v : Word} {later : List HostAct} (h : s.host = .mmioWrite 4 0x04 v :: later)
    (h1 : v.getLsbD 1 = true) : step s = .next (State.softReset { s with host := later }) := by
  rw [step_of_writeCtrl h, State.writeCtrl, h1]
  rfl

/-- What ABORT writes of itself, and what it leaves alone (R187, R464 points 1 and 2). -/
theorem abort_frame (s : State) : s.abort.errpc = s.cpc ∧ s.abort.cpc = s.cpc ∧ s.abort.corrupt = true ∧
    s.abort.done = s.done ∧ s.abort.cptr = s.cptr ∧ s.abort.irqen = s.irqen ∧ s.abort.host = s.host := by
  obtain ⟨hcpc, hdone, hcptr, hirqen, hhost, -⟩ := metInRun_frame s
  simp [State.abort, hcpc, hdone, hcptr, hirqen, hhost]

/-- Keys, engines, registers and MEM are as where the run was met. -/
theorem abort_data (s : State) : s.abort.keys = s.metInRun.keys ∧ s.abort.stream = s.metInRun.stream ∧
    s.abort.acc = s.metInRun.acc ∧ s.abort.s2v = s.metInRun.s2v ∧ s.abort.br = s.metInRun.br ∧
    ∀ a, s.abort.byteAt a = s.metInRun.byteAt a := by
  refine ⟨?_, ?_, ?_, ?_, ?_, State.byteAt_congr ?_ ?_⟩ <;> simp [State.abort]

theorem SameData.metCommand_abort {i : Instr} {s s' : State} (h : SameData s s') (hf : s'.fetch = .ok i) :
    MetCommand i s s'.abort := by
  obtain ⟨hk, hs, ha, hd, hbr, hm⟩ := abort_data s'
  obtain ⟨hkeep, hclear, hreg, hpart⟩ := h.metCommand hf
  refine ⟨?_, ?_, fun r hr => ?_, partlyWritten_congr hpart hm⟩
  · rwa [hk, hs]
  · rwa [hk, hs, ha, hd]
  · rw [State.getBr, hbr]
    exact hreg r hr

theorem SameData.abort_of_fetch_error {s s' : State} {e : Err} (h : SameData s s') (hf : s'.fetch = .error e) :
    s'.abort.keys = s.keys ∧ s'.abort.stream = s.stream ∧ s'.abort.br = s.br ∧
      ∀ a, s'.abort.byteAt a = s.byteAt a := by
  obtain ⟨hk, hs, -, -, hbr, hm⟩ := abort_data s'
  rw [metInRun_of_fetch_error hf] at hk hs hbr hm
  exact ⟨hk.trans h.keys, hs.trans h.stream, hbr.trans h.br, fun a => (hm a).trans (State.byteAt_congr h.mem h.epoch a)⟩

theorem SameData.fetch {s s' : State} (h : SameData s s') (hc : s'.cpc = s.cpc) : s'.fetch = s.fetch := by
  have hw : s'.window = s.window := by rw [State.window, State.window, hc, h.readBytes]
  rw [State.fetch, State.fetch, hw]

/-- Settles O59: ABORT is the trap entry from where the run is met, with CORRUPT set. -/
theorem abortEndsRunCorrupted : Obligations.AbortEndsRunCorrupted := by
  unfold Obligations.AbortEndsRunCorrupted
  intro s v later hh hb h1 h2
  have hdata : SameData s { s with host := later, irqen := v.getLsbD 8 } := ⟨rfl, rfl, rfl, rfl, rfl⟩
  have hfetch := hdata.fetch rfl
  obtain ⟨herrpc, hcpc, hcorrupt, hdone, hcptr, hirqen, hhost⟩ :=
    abort_frame { s with host := later, irqen := v.getLsbD 8 }
  exact ⟨_, step_of_abort hh hb h1 h2, rfl, rfl, rfl, herrpc, hcpc, hcorrupt, hdone, hcptr, hirqen, hhost,
    fun i hf => hdata.metCommand_abort (hfetch.trans hf), fun e hf => hdata.abort_of_fetch_error (hfetch.trans hf)⟩

/-! ### The resets (R57, R500 to R502) -/

/-- The state whose registers all have their reset value; MEM and the model's own fields are those of `t`. -/
def State.resetWith (t : State) : State :=
  { State.reset with
    mem := t.mem, epoch := t.epoch, answers := t.answers, reqs := t.reqs, draws := t.draws, host := t.host }

theorem mask_cleared (i : Nat) : Keys.cleared.mask i = 0#128 := by
  unfold Keys.mask Keys.cleared
  rw [Vector.getElem?_replicate]
  split <;> rfl

theorem softReset_byteAt_idle {s : State} (hb : s.busy = false) (a : Nat) : s.softReset.byteAt a = s.byteAt a :=
  State.byteAt_congr (by simp [State.softReset, hb]) (by simp [State.softReset, hb]) a

theorem softReset_byteAt_run {s : State} (hb : s.busy = true) (a : Nat) :
    s.softReset.byteAt a = s.metInRun.byteAt a :=
  State.byteAt_congr (by simp [State.softReset, hb]) (by simp [State.softReset, hb]) a

theorem hardReset_byteAt (s : State) (a : Nat) : s.hardReset.byteAt a = Config.powerOnByte (s.epoch + 1) a := rfl

/-- Settles O5: every reset gives the registers of `State.reset`, and a soft one keeps MEM as the run was met. -/
theorem resetsLeaveSpecValues : Obligations.ResetsLeaveSpecValues := by
  unfold Obligations.ResetsLeaveSpecValues
  refine ⟨fun s t ht => ?_, fun s v later => ⟨fun h => step_of_hostAct h HostAct.noConfusion, step_of_sreset⟩⟩
  have hreset : t = t.resetWith := by rcases ht with rfl | rfl | rfl <;> rfl
  have hhard : t = s.hardReset → ∀ a, t.byteAt a = Config.powerOnByte (s.epoch + 1) a := fun h => h ▸ hardReset_byteAt s
  have hidle : t = s.softReset → s.busy = false → ∀ a, t.byteAt a = s.byteAt a :=
    fun h hb => h ▸ softReset_byteAt_idle hb
  have hrun : t = s.softReset → s.busy = true → (∀ i, s.fetch = .ok i → PartlyWritten i s t) ∧
      (∀ e, s.fetch = .error e → ∀ a, t.byteAt a = s.byteAt a) := by
    rintro rfl hb
    refine ⟨fun i hf => ?_, fun e hf a => ?_⟩
    · obtain ⟨-, -, -, hpart⟩ := (SameData.refl s).metCommand hf
      exact partlyWritten_congr hpart (softReset_byteAt_run hb)
    · rw [softReset_byteAt_run hb, metInRun_of_fetch_error hf]
      rfl
  refine ⟨?_, ?_, ?_, ?_, ?_, ?_, ?_, ?_, ?_, ?_, ?_, ?_, ?_, ?_, ?_, ?_, ?_, ?_, ?_, ?_, ?_, ?_, ?_, ?_, ?_, ?_, ?_,
    ?_, ?_, ?_, ?_, ?_, ?_, hhard, hidle, hrun⟩
  case refine_1 => rw [hreset]; intro r; cases r <;> rfl
  case refine_7 => rw [hreset]; exact mask_cleared
  all_goals (rw [hreset]; rfl)

end Sys2Proof.Machine

/-!
PROOFS. The host's writes and reads (10_state.md R43 to R55; 20_memory.md R107; 40_sequencer.md R180).
-/

namespace Sys2Proof.Machine

open Sys2Proof.Spec

/-! ### Writes -/

/-- A CTRL write without SRESET sets IRQEN and acts by its other bits (R45). -/
theorem writeCtrl_of_no_sreset (s : State) {v : Word} (h1 : v.getLsbD 1 = false) :
    s.writeCtrl v = State.ctrlAction { s with irqen := v.getLsbD 8 } (v.getLsbD 0) (v.getLsbD 2) := by
  rw [State.writeCtrl, h1]
  rfl

/-- Offsets without a register that the host writes (R43, R53). -/
theorem mmioWrite_other (s : State) (v : Word) {off : Nat} (h : off ≠ 0x04 ∧ off ≠ 0x08 ∧ off ≠ 0x10) :
    s.mmioWrite off v = s := by
  unfold State.mmioWrite
  split
  · exact absurd rfl h.1
  · exact absurd rfl h.2.1
  · exact absurd rfl h.2.2
  · rfl

/-- An MMIO write that the block does not support, or to no register of the host's, is ignored (R43, R53, R55). -/
theorem hostAct_ignored (s : State) (v : Word) {width off : Nat}
    (h : width ≠ 4 ∨ off % 4 ≠ 0 ∨ 256 ≤ off ∨ (off ≠ 0x04 ∧ off ≠ 0x08 ∧ off ≠ 0x10)) :
    s.hostAct (.mmioWrite width off v) = s := by
  simp only [State.hostAct]
  split
  next hsup =>
    simp only [mmioAccess, Bool.and_eq_true, beq_iff_eq, decide_eq_true_eq] at hsup
    exact mmioWrite_other s v (by omega)
  · rfl

/-- A host write of MEM (R107). -/
theorem hostAct_memWrite (s : State) (a : Nat) (b : Byte) :
    ∃ m, s.hostAct (.memWrite a b) = { s with mem := m } ∧
      (∀ x, x ≠ a → (s.hostAct (.memWrite a b)).byteAt x = s.byteAt x) ∧
      (s.busy = true ∨ Config.memSize ≤ a → m = s.mem) ∧
      (s.busy = false → a < Config.memSize → (s.hostAct (.memWrite a b)).byteAt a = b) := by
  have hact : s.hostAct (.memWrite a b) = if s.busy then s else s.setByte a b := rfl
  rw [hact]
  by_cases hb : s.busy = true
  · rw [if_pos hb]
    exact ⟨s.mem, rfl, fun _ _ => rfl, fun _ => rfl, fun h => absurd hb (by simp [h])⟩
  · rw [if_neg hb]
    refine ⟨(s.setByte a b).mem, State.setByte_eq s a b, fun x hx => State.byteAt_setByte_other s b hx, fun h => ?_,
      fun _ ha => State.byteAt_setByte_same s b ha⟩
    have ha : ¬a < Config.memSize := Nat.not_lt.2 (h.resolve_left hb)
    rw [State.setByte, if_neg ha]

/-- Settles O58: a step in which the host acts is that action, and each has few cases. -/
theorem hostWritesTakeEffect : Obligations.HostWritesTakeEffect := by
  unfold Obligations.HostWritesTakeEffect
  intro s v a width off b later
  refine ⟨fun h => ⟨step_of_sreset h, fun h1 h0 hb => ?_, fun h1 h0 hb => ?_, fun h1 h2 hb => ?_⟩, fun h => ?_,
    fun h => ?_, fun h hoff => ?_, fun h => ?_⟩
  · rw [step_of_writeCtrl h, writeCtrl_of_no_sreset _ h1, h0]
    simp [State.ctrlAction, hb, State.startRun]
  · rw [step_of_writeCtrl h, writeCtrl_of_no_sreset _ h1, h0]
    simp [State.ctrlAction, hb]
  · rw [step_of_writeCtrl h, writeCtrl_of_no_sreset _ h1, h2]
    simp [State.ctrlAction, hb]
  · exact step_of_hostAct h HostAct.noConfusion
  · refine ⟨if s.busy then s.cptr else v &&& 0xFFFFFFFC#32, ?_, fun hb => if_pos hb, fun hb => ?_⟩
    · rw [step_of_hostAct h HostAct.noConfusion]
      change Host.Outcome.next (State.writeCptr { s with host := later } v) = _
      cases hb : s.busy <;> simp [State.writeCptr]
    · rw [hb]
      exact toNat_and_alignMask v
  · rw [step_of_hostAct h HostAct.noConfusion, hostAct_ignored _ v hoff]
  · obtain ⟨m, heq, hother, hkept, hsame⟩ := hostAct_memWrite { s with host := later } a b
    exact ⟨_, m, step_of_hostAct h HostAct.noConfusion, heq, hother, hkept, hsame⟩

/-! ### STATUS (R46) -/

/-- Outside the bits that are free during a run, and in every bit of an idle core, STATUS is exact. -/
theorem status_getLsbD {s : State} {j : Nat} (h : s.busy = false ∨ statusFreeMask.getLsbD j = false) (hj : j < 32)
    (n : Nat) : (s.status n).getLsbD j = s.statusExact.getLsbD j := by
  unfold State.status
  split
  next hb =>
    have hfree : statusFreeMask.getLsbD j = false := h.resolve_left (by simp [hb])
    simp only [BitVec.getLsbD_or, BitVec.getLsbD_and, BitVec.getLsbD_not, hfree, hj]
    simp
  · rfl

theorem status_of_idle {s : State} (h : s.busy = false) (n : Nat) : s.status n = s.statusExact := by
  simp [State.status, h]

/-- The bits of an exact STATUS word, lowest first (R46). -/
theorem statusExact_bits (s : State) :
    s.statusExact.getLsbD 0 = s.busy ∧ s.statusExact.getLsbD 1 = s.done ∧ s.statusExact.getLsbD 2 = s.err ∧
    s.statusExact.getLsbD 3 = s.corrupt ∧ s.statusExact.getLsbD 10 = s.keys.ctrkey ∧
    s.statusExact.getLsbD 11 = s.acc.fin ∧ s.statusExact.getLsbD 17 = s.s2v.act ∧
    s.statusExact.getLsbD 20 = (stDirBit s.stream.dir).getLsbD 0 := by
  have hflag : ∀ b : Bool, (flagBit b).getLsbD 0 = b := by decide
  simp only [State.statusExact, BitVec.getLsbD_append, Nat.reduceLT, Nat.reduceSub, if_true, if_false, hflag, and_self]

/-- The fields of an exact STATUS word that are wider than a bit (R46). -/
theorem statusExact_fields (s : State) :
    s.statusExact.extractLsb' 4 4 = 0#4 ∧ s.statusExact.extractLsb' 8 2 = s.keys.macmode.bits ∧
    s.statusExact.extractLsb' 12 5 = BitVec.ofNat 5 s.acc.pos ∧
    s.statusExact.extractLsb' 18 2 = s.stream.state.bits ∧ s.statusExact.extractLsb' 21 11 = 0#11 := by
  refine ⟨?_, ?_, ?_, ?_, ?_⟩ <;>
  · refine extractLsb'_eq_of_getLsbD fun j hj => ?_
    simp only [State.statusExact, BitVec.getLsbD_append]
    grind

/-- The bits of STATUS that no run makes free, read as in an idle core. -/
theorem status_extract_of_mask {s : State} {a m : Nat} (n : Nat)
    (h : ∀ j, j < m → a + j < 32 ∧ statusFreeMask.getLsbD (a + j) = false) :
    (s.status n).extractLsb' a m = s.statusExact.extractLsb' a m :=
  extractLsb'_eq_of_getLsbD fun j hj => by
    rw [status_getLsbD (.inr (h j hj).2) (h j hj).1, BitVec.getLsbD_extractLsb']
    simp [hj]

/-! ### Reads (R43 to R53) -/

/-- The command that CPC shows during a run is one that the run reaches, or one that it has completed (R49). -/
theorem cpcAhead_reached {s t : State} (n : Nat) (h : RunReaches s t) : ∃ u, RunReaches s u ∧ cpcAhead n t = u.cpc := by
  induction n generalizing t with
  | zero => exact ⟨t, h, rfl⟩
  | succ n ih =>
    cases hstep : step t with
    | next u =>
      cases hb : u.busy with
      | true => simpa [cpcAhead, hstep, hb] using ih (h.later hstep hb)
      | false => exact ⟨t, h, by simp [cpcAhead, hstep, hb]⟩
    | fault f => cases f
    | refused r => exact ⟨t, h, by simp [cpcAhead, hstep]⟩

theorem runCommand_of_run (s : State) (k : Nat) :
    s.runCommand k ∈ s.past ∨ ∃ t, RunReaches s t ∧ s.runCommand k = t.cpc := by
  unfold State.runCommand
  cases h : s.past[k]? with
  | some c => exact .inl (List.mem_of_getElem? h)
  | none => exact .inr (cpcAhead_reached _ .here)

/-- Offsets without a register, and accesses that the block does not support, read 0 (R43, R55). -/
theorem mmioRead_unsupported (n : Nat) (s : State) {width off : Nat} (h : width ≠ 4 ∨ off % 4 ≠ 0 ∨ 0x24 ≤ off) :
    s.mmioRead n width off = 0#32 := by
  unfold State.mmioRead
  split
  next hsup =>
    simp only [mmioAccess, Bool.and_eq_true, beq_iff_eq, decide_eq_true_eq] at hsup
    unfold State.mmioReg
    split
    case h_10 => rfl
    all_goals omega
  · rfl

theorem ctrl_eq (s : State) : s.ctrl = if s.irqen then 0x100#32 else 0#32 := by
  unfold State.ctrl
  cases s.irqen <;> rfl

/-- Settles O60: STATUS by its bits, and every other read by its offset. -/
theorem statusShowsState : Obligations.StatusShowsState := by
  unfold Obligations.StatusShowsState
  intro n s
  obtain ⟨hbusy, hdone, herr, hcorrupt, hctrkey, hfin, hact, hdir⟩ := statusExact_bits s
  obtain ⟨hlow, hmode, hpos, hstate, hhigh⟩ := statusExact_fields s
  refine ⟨?_, ?_, ?_, ?_, ?_, fun hb => ?_, rfl, rfl, ctrl_eq s, rfl, ?_, rfl, rfl, rfl, fun hn => ?_, fun hb => ?_,
    fun hb => ?_, fun _ _ h => mmioRead_unsupported n s h, fun _ => rfl⟩
  · rw [status_getLsbD (.inr (by decide)) (by decide), hbusy]
  · rw [status_getLsbD (.inr (by decide)) (by decide), hdone]
  · rw [status_getLsbD (.inr (by decide)) (by decide), herr]
  · rw [status_extract_of_mask n (by decide), hlow]
  · rw [status_extract_of_mask n (by decide), hhigh]
  · rw [status_of_idle hb]
    refine ⟨hcorrupt, hmode.trans ?_, hctrkey, hfin, fun h => ?_, hact, hstate.trans ?_, hdir.trans ?_⟩
    · cases s.keys.macmode <;> rfl
    · rw [hpos, BitVec.toNat_ofNat]
      omega
    · cases s.stream.state <;> rfl
    · cases s.stream.dir <;> rfl
  · change (s.errcode.setWidth 32).toNat = _
    have hlt := s.errcode.isLt
    rw [BitVec.toNat_setWidth]
    omega
  · change ((BitVec.ofNat 8 s.s2v.nad).setWidth 32).toNat = _
    simp [Config.maxAd] at hn ⊢
    omega
  · change s.cpcReg n = _
    rw [State.cpcReg, hb]
    rfl
  · change s.cpcReg n ∈ s.past ∨ ∃ t, RunReaches s t ∧ s.cpcReg n = t.cpc
    rw [State.cpcReg, hb]
    exact runCommand_of_run s _

end Sys2Proof.Machine

/-!
PROOFS. The doubler's algebra (41_block_unit.md R202, R203) and PMAC's positional masks as a Gray code (43_pmac.md R264,
R269).
-/

namespace Sys2Proof.Machine

/-! ### The doubler (R202, R203) -/

theorem dbl_getLsbD (b : Block) {j : Nat} (hj : j < 128) : (dbl b).getLsbD j =
    ((decide (0 < j) && b.getLsbD (j - 1)) ^^ (b.getLsbD 127 && (0x87#128).getLsbD j)) := by
  have hpos : (!decide (j < 1)) = decide (0 < j) := by grind
  rw [dbl, BitVec.getLsbD_xor, BitVec.getLsbD_shiftLeft, hpos]
  cases b.getLsbD 127 <;> simp [hj]

theorem halve_getLsbD (b : Block) (j : Nat) : (halve b).getLsbD j =
    (b.getLsbD (j + 1) ^^ (b.getLsbD 0 && (0x80000000000000000000000000000043#128).getLsbD j)) := by
  rw [halve, BitVec.getLsbD_xor, BitVec.getLsbD_ushiftRight, Nat.add_comm]
  cases b.getLsbD 0 <;> simp

/-- The constant of `halve` is that of `dbl` moved down, with the bit that moves out at the top. -/
theorem halveConst_getLsbD : ∀ j, j < 128 →
    (0x80000000000000000000000000000043#128).getLsbD j = ((0x87#128).getLsbD (j + 1) ^^ decide (j = 127)) := by
  decide

theorem halve_dbl (b : Block) : halve (dbl b) = b := by
  refine BitVec.eq_of_getLsbD_eq fun j hj => ?_
  rw [halve_getLsbD, halveConst_getLsbD j hj, dbl_getLsbD b (by omega : 0 < 128)]
  by_cases h : j = 127
  · subst h
    simp
  · rw [dbl_getLsbD b (by omega : j + 1 < 128)]
    simp [h]

theorem dbl_halve (b : Block) : dbl (halve b) = b := by
  refine BitVec.eq_of_getLsbD_eq fun j hj => ?_
  rw [dbl_getLsbD _ hj, halve_getLsbD b 127, halve_getLsbD b (j - 1)]
  cases j with
  | zero => simp
  | succ j =>
    rw [Nat.add_sub_cancel, halveConst_getLsbD j (by omega)]
    have h : j ≠ 127 := by omega
    simp [h]

theorem dbl_xor (b c : Block) : dbl (b ^^^ c) = dbl b ^^^ dbl c := by
  refine BitVec.eq_of_getLsbD_eq fun j hj => ?_
  rw [BitVec.getLsbD_xor, dbl_getLsbD _ hj, dbl_getLsbD _ hj, dbl_getLsbD _ hj]
  simp only [BitVec.getLsbD_xor, Bool.and_xor_distrib_left, Bool.and_xor_distrib_right]
  grind

/-- The doubler has no fixed point but zero: its constant has an even number of bits, so the top bit comes out 0. -/
theorem eq_zero_of_dbl_eq {b : Block} (h : dbl b = b) : b = 0#128 := by
  have hbit : ∀ j, j < 128 → b.getLsbD j =
      ((decide (0 < j) && b.getLsbD (j - 1)) ^^ (b.getLsbD 127 && (0x87#128).getLsbD j)) := fun j hj => by
    rw [← dbl_getLsbD b hj, h]
  have hhigh : ∀ j, 7 ≤ j → j < 128 → b.getLsbD j = false := by
    intro j h7
    induction j, h7 using Nat.le_induction with
    | base =>
      intro _
      rw [hbit 7, hbit 6, hbit 5, hbit 4, hbit 3, hbit 2, hbit 1, hbit 0]
      all_goals simp
    | succ j hj ih =>
      intro hlt
      have hconst : ∀ j, j < 127 → 7 ≤ j → (0x87#128).getLsbD (j + 1) = false := by decide
      simp [hbit (j + 1) hlt, ih (by omega), hconst j (by omega) hj]
  have hall : ∀ j, j < 128 → b.getLsbD j = false := by
    intro j
    induction j with
    | zero => intro hj; rw [hbit 0 hj, hhigh 127 (by decide) (by decide)]; rfl
    | succ j ih =>
      intro hj
      rw [hbit (j + 1) hj, hhigh 127 (by decide) (by decide), Nat.add_sub_cancel, ih (by omega)]
      rfl
  exact BitVec.eq_of_getLsbD_eq fun j hj => (hall j hj).trans BitVec.getLsbD_zero.symm

/-- `b XOR dbl b` would be a fixed point of the doubler. -/
theorem dbl_dbl_ne {b : Block} (hb : b ≠ 0#128) : dbl (dbl b) ≠ b := by
  intro h
  have hfix : dbl (dbl b ^^^ b) = dbl b ^^^ b := by rw [dbl_xor, h, BitVec.xor_comm]
  have hdbl : dbl b = b := BitVec.xor_eq_zero_iff.1 (eq_zero_of_dbl_eq hfix)
  exact hb (eq_zero_of_dbl_eq hdbl)

/-- Settles O19: bit by bit, and the doubler's fixed point is zero alone. -/
theorem doublerIsLinearBijection : Obligations.DoublerIsLinearBijection := by
  unfold Obligations.DoublerIsLinearBijection
  exact ⟨halve_dbl, dbl_halve, fun _ => rfl, dbl_xor, rfl, fun _ => dbl_dbl_ne⟩

/-! ### Trailing zeros (R15) -/

/-- A positive number is an odd one shifted left by its trailing zeros. -/
theorem ntzUpTo_spec (fuel i : Nat) (hpos : 0 < i) (hfuel : i ≤ fuel) :
    ∃ m, i = 2 ^ ntzUpTo fuel i * (2 * m + 1) := by
  induction fuel generalizing i with
  | zero => omega
  | succ fuel ih =>
    rw [ntzUpTo]
    split
    next heven =>
      obtain ⟨m, hm⟩ := ih (i / 2) (by omega) (by omega)
      refine ⟨m, ?_⟩
      rw [Nat.pow_add, Nat.pow_one, Nat.mul_assoc, ← hm]
      omega
    next hodd => exact ⟨i / 2, by omega⟩

/-- Counting up by one flips the trailing bits, up to the last zero. -/
theorem testBit_xor_succ (i j : Nat) : (i ^^^ (i + 1)).testBit j = decide (j ≤ ntz (i + 1)) := by
  obtain ⟨m, hm⟩ := ntzUpTo_spec (i + 1) (i + 1) (by omega) le_rfl
  rw [← ntz] at hm
  generalize ntz (i + 1) = n at hm ⊢
  have hpow : 0 < 2 ^ n := by positivity
  have hi : i = 2 ^ n * (2 * m) + (2 ^ n - 1) := by
    rw [Nat.mul_add] at hm
    omega
  have hi' : i + 1 = 2 ^ n * (2 * m + 1) + 0 := hm
  rw [Nat.testBit_xor, hi', hi, Nat.testBit_two_pow_mul_add _ (by omega), Nat.testBit_two_pow_mul_add _ hpow]
  rcases lt_trichotomy j n with h | rfl | h
  · simp [h, h.le]
  · simp
  · obtain ⟨d, hd⟩ : ∃ d, j - n = d + 1 := ⟨j - n - 1, by omega⟩
    have hodd : (2 * m + 1) / 2 = m := by omega
    simp [hd, h.not_gt, h.not_ge, Nat.testBit_succ, hodd]

/-- The Gray code of the next number differs in the bit of its trailing zeros (R269). -/
theorem gray_succ (i : Nat) :
    (i + 1) ^^^ ((i + 1) >>> 1) = (i ^^^ (i >>> 1)) ^^^ 2 ^ ntz (i + 1) := by
  refine Nat.eq_of_testBit_eq fun j => ?_
  have h0 := testBit_xor_succ i j
  have h1 := testBit_xor_succ i (j + 1)
  simp only [Nat.testBit_xor, Nat.testBit_shiftRight, Nat.testBit_two_pow, Nat.add_comm 1 j] at h0 h1 ⊢
  grind

end Sys2Proof.Machine

namespace Sys2Proof.Spec

open Sys2Proof.Machine

/-! ### Positional masks (R264, R269) -/

theorem maskSum_zero (k : Keys) (n : Nat) : maskSum k 0 n = 0#128 := by
  induction n with
  | zero => rfl
  | succ n ih => simp [maskSum, ih]

/-- Flipping one bit of a Gray code adds the mask of that bit, where it is among the bits summed. -/
theorem maskSum_flip (k : Keys) (g b n : Nat) :
    maskSum k (g ^^^ 2 ^ b) n = maskSum k g n ^^^ (if b < n then k.mask b else 0#128) := by
  induction n with
  | zero => simp [maskSum]
  | succ n ih =>
    rw [maskSum, maskSum, ih, Nat.testBit_xor, Nat.testBit_two_pow]
    rcases lt_trichotomy b n with h | rfl | h
    · simp only [h, h.ne, h.trans (Nat.lt_succ_self n), if_true, decide_false, Bool.xor_false]
      ac_rfl
    · cases g.testBit b <;> simp
    · simp [h.ne', h.not_gt, Nat.not_lt.2 h]

theorem ntz_lt {i n : Nat} (h : i + 1 < 2 ^ n) : ntz (i + 1) < n := by
  obtain ⟨m, hm⟩ := ntzUpTo_spec (i + 1) (i + 1) (by omega) le_rfl
  rw [← ntz] at hm
  have hle : 2 ^ ntz (i + 1) ≤ i + 1 := by
    calc 2 ^ ntz (i + 1) ≤ 2 ^ ntz (i + 1) * (2 * m + 1) := Nat.le_mul_of_pos_right _ (by omega)
      _ = i + 1 := hm.symm
  exact (Nat.pow_lt_pow_iff_right (by decide)).1 (hle.trans_lt h)

/-- Settles O30: each step of the index flips one bit of its Gray code, and adds that bit's mask. -/
theorem pmacOffsetsAreGrayCode : Obligations.PmacOffsetsAreGrayCode := by
  unfold Obligations.PmacOffsetsAreGrayCode
  intro k i hi
  induction i with
  | zero => exact (maskSum_zero k _).symm
  | succ i ih => rw [offsetOf, ih (by omega), gray_succ, maskSum_flip, if_pos (ntz_lt hi)]

end Sys2Proof.Spec

/-!
PROOFS. Counter mode (45_s2v_siv.md R348), and that opening undoes sealing (R352, R353).
-/

namespace Sys2Proof.Machine

/-! ### Counter mode (R348) -/

/-- All 128 bits of the counter block count (R10, R348). -/
theorem ctrBlock_eq (q : Block) (j : Nat) : ctrBlock q j = q + BitVec.ofNat 128 j := by
  have hq := q.isLt
  have hdiv : q.toNat / 2 ^ 128 = 0 := Nat.div_eq_of_lt hq
  refine BitVec.eq_of_toNat_eq ?_
  rw [ctrBlock, Config.ctrBits, hdiv]
  simp

theorem keyStream_getElem (e : Block → Block) (q : Block) (j n i : Nat) (h : i < (keyStream e q j n).length) :
    (keyStream e q j n)[i] = blockByte (e (q + BitVec.ofNat 128 (j + i / 16))) (i % 16) := by
  induction n generalizing j i with
  | zero => simp [keyStream] at h
  | succ n ih =>
    simp only [keyStream, List.getElem_append, blockBytes_length, ctrBlock_eq]
    split
    next hlt =>
      rw [blockBytes_getElem, Nat.div_eq_of_lt hlt, Nat.mod_eq_of_lt hlt, Nat.add_zero]
    next hge =>
      have hdiv : j + 1 + (i - 16) / 16 = j + i / 16 := by omega
      have hmod : (i - 16) % 16 = i % 16 := by omega
      rw [ih, hdiv, hmod]

theorem ctr_getD (e : Block → Block) (q : Block) (d : Bytes) {i : Nat} (h : i < d.length) :
    (ctr e q d).getD i 0#8 = d.getD i 0#8 ^^^ blockByte (e (q + BitVec.ofNat 128 (i / 16))) (i % 16) := by
  have hlen : i < (ctr e q d).length := by simpa using h
  rw [List.getD_eq_getElem _ _ hlen, List.getD_eq_getElem _ _ h]
  refine (xorBytes_getElem d _ i hlen).trans ?_
  rw [keyStream_getElem, Nat.zero_add]

/-- The key stream depends on the length alone, and XOR with it twice changes nothing. -/
theorem ctr_ctr (e : Block → Block) (q : Block) (d : Bytes) : ctr e q (ctr e q d) = d := by
  rw [ctr, ctr_length, ctr]
  exact xorBytes_cancel _ _ (by rw [keyStream_length]; omega)

/-- Settles O36: a byte of the key stream is a byte of the encrypted counter, and XOR with it twice changes nothing. -/
theorem counterModeBytewise : Obligations.CounterModeBytewise := by
  unfold Obligations.CounterModeBytewise
  exact fun e q d => ⟨ctr_length e q d, fun _ h => ctr_getD e q d h, ctr_ctr e q d⟩

/-! ### Opening what was sealed (R352, R353) -/

theorem sivOpen_sivSeal (bc : Bytes → Block → Block) (k : Keys) (ads : List Bytes) (p : Bytes) :
    sivOpen bc k ads (sivSeal bc k ads p) = some p := by
  simp [sivSeal, sivOpen, ctr_ctr]

/-- Settles O38: the tag read back is the one recomputed, and counter mode undoes itself. -/
theorem openInvertsSeal : Obligations.OpenInvertsSeal := by
  unfold Obligations.OpenInvertsSeal
  exact fun bc k ads p => ⟨sivSeal_length bc k ads p, sivOpen_sivSeal bc k ads p⟩

end Sys2Proof.Machine

/-!
PROOFS. Commands whose provider requests are granted (10_state.md R33, assumption 1), and three that need no more: BST
(41_block_unit.md R210), MUPDATE and MFINISH (44_key_mac.md R305, R306).
-/

namespace Sys2Proof.Machine

open Spec

/-! ### Commands with their requests granted (R33, R181, R465) -/

/-- A job whose requests are granted and that raises no error ends in its final state, the answers used up and CPC moved
past the command. -/
theorem runPlan_completes {s : State} {n : Nat} {j : Job} (hg : j.base.Grants j.reqs) (hr : j.raises = none) :
    runPlan s n (.go j) = .next ((j.final.spend j.reqs).advance n) := by
  rw [runPlan_granted ((State.verdict_granted_iff _ _).2 hg), Job.finish, hr]

/-- A job whose requests are granted and that raises an error ends in its final state with the trap entry. -/
theorem runPlan_raises {s : State} {n : Nat} {j : Job} {e : Err} (hg : j.base.Grants j.reqs) (hr : j.raises = some e) :
    runPlan s n (.go j) = .next ((j.final.spend j.reqs).trap e) := by
  rw [runPlan_granted ((State.verdict_granted_iff _ _).2 hg), Job.finish, hr]

theorem State.grants_zero (s : State) : s.Grants 0 := fun _ h => absurd h (Nat.not_lt_zero _)

theorem legal_eq_false_iff (a n : Nat) : legal a n = false ↔ Config.memSize < a + n := by simp [legal]

theorem Keys.hasMac_eq_false_iff (k : Keys) : k.hasMac = false ↔ k.macmode = .none := by simp [Keys.hasMac]

/-- A string written to a legal range is stored there, whatever else of the state changes with it. -/
theorem stored_of_writeBytes {s t : State} {a : Nat} {v : Bytes} (hl : a + v.length ≤ Config.memSize)
    (hm : t.mem = (s.writeBytes a v).mem) (he : t.epoch = s.epoch) : Stored s t a v := by
  have hbyte (x : Nat) : t.byteAt x = (s.writeBytes a v).byteAt x :=
    State.byteAt_congr hm (he.trans (State.writeBytes_epoch s a v).symm) x
  refine ⟨?_, fun x hx => (hbyte x).trans (State.byteAt_writeBytes_outside s a x v hx)⟩
  exact (State.readBytes_congr fun _ _ => hbyte _).trans (State.readBytes_writeBytes s a v hl)

theorem byteAt_of_stored {s t : State} {a : Nat} {v : Bytes} (h : Stored s t a v) {i : Nat} (hi : i < v.length) :
    t.byteAt (a + i) = v[i] := by
  have hlen : i < (t.readBytes a v.length).length := by rwa [State.readBytes_length]
  rw [← State.readBytes_getElem t a v.length i hlen]
  exact getElem_congr_coll h.1

/-! ### BST (R210) -/

/-- The word of a command that names a source register only (R143). -/
theorem headerWord_rsOnly (opc : Byte) (rs : BReg) :
    headerWord opc 0#4 rs.field 0#8 = (opc ++ 0#24) ||| (rs.bits.setWidth 32 <<< 16) :=
  (headerWord_regs opc .b0 rs).trans (congrArg (· ||| (rs.bits.setWidth 32 <<< 16)) BitVec.or_zero)

/-- BST of a range outside MEM raises ADDR (R210, R102). -/
theorem exec_bst_outside (rs : BReg) {addr : Word} {s : State} (hc : s.corrupt = false)
    (h : Config.memSize < addr.toNat + 16) : exec (.bst rs addr) s = .next (s.trap .addr) :=
  exec_of_plan_stop (by rw [planOf, planBst, gated_ok hc, (legal_eq_false_iff _ _).2 h]; rfl)

/-- BST of a legal range stores the register's bytes there and moves CPC (R210). -/
theorem exec_bst_inside (rs : BReg) {addr : Word} {s : State} (hc : s.corrupt = false)
    (h : addr.toNat + 16 ≤ Config.memSize) :
    ∃ t m, exec (.bst rs addr) s = .next t ∧ t = { s with mem := m, cpc := s.cpc + 8#32 } ∧
      Stored s t addr.toNat (blockBytes (s.getBr rs)) := by
  refine ⟨_, (s.writeBytes addr.toNat (blockBytes (s.getBr rs))).mem, ?_, rfl,
    stored_of_writeBytes (by rwa [blockBytes_length]) rfl rfl⟩
  rw [exec_eq_runPlan, planOf, planBst, gated_ok hc, (legal_iff _ _).2 h]
  refine (runPlan_completes (State.grants_zero s) rfl).trans ?_
  rw [Job.plain_reqs, State.spend_zero, State.writeBytes_eq]
  rfl

/-- Settles O17: the bytes of the register are stored at the address, byte by byte. -/
theorem bstStoresBlock : Obligations.BstStoresBlock := by
  unfold Obligations.BstStoresBlock
  refine fun rs addr => ⟨congrArg ([·, addr]) (headerWord_rsOnly 0x15#8 rs), fun s hc =>
    ⟨fun hin => ?_, exec_bst_outside rs hc⟩⟩
  obtain ⟨t, m, hexec, ht, hst⟩ := exec_bst_inside rs hc hin
  refine ⟨t, m, hexec, ht, fun i hi => ?_, fun x hx => hst.2 x (by rwa [blockBytes_length])⟩
  rw [byteAt_of_stored hst (by rwa [blockBytes_length]), blockBytes_getElem]

/-! ### MUPDATE (R305) -/

/-- Past its checks MUPDATE absorbs its bytes with a request for each block (R305, R270). -/
theorem exec_mupdate_granted {addr len : Word} {s : State} (hc : s.corrupt = false)
    (hin : addr.toNat + len.toNat ≤ Config.memSize) (hm : s.keys.macmode ≠ .none) (hf : s.acc.fin = false)
    (hl : s.keys.macmode = .pmac → s.acc.pcnt + absorbed s.acc.pos len.toNat ≤ pmacLimit)
    (hg : s.Grants (absorbed s.acc.pos len.toNat)) :
    exec (.mupdate addr len) s = .next { s.spend (absorbed s.acc.pos len.toNat) with
      acc := macUpdate s.keys.macEnc s.keys s.acc (s.operand addr len), cpc := s.cpc + 12#32 } := by
  have hlim : (s.keys.macmode == .pmac && decide (pmacLimit < s.acc.pcnt + absorbed s.acc.pos len.toNat)) = false := by
    simpa using hl
  rw [exec_eq_runPlan, planOf, planMupdate, gated_ok hc, legalRange, (legal_iff _ _).2 hin, (Keys.hasMac_iff _).2 hm,
    hf, hlim]
  exact runPlan_completes hg rfl

/-- Settles O25: each check with the ones before it passed, then the engine's update. -/
theorem mupdateAbsorbs : Obligations.MupdateAbsorbs := by
  unfold Obligations.MupdateAbsorbs
  refine fun addr len s hc => ⟨fun hout => ?_, fun hin => ?_⟩
  · exact exec_of_plan_stop (by rw [planOf, planMupdate, gated_ok hc, legalRange, (legal_eq_false_iff _ _).2 hout]; rfl)
  refine ⟨fun hm => ?noKey, fun hm hf => ?sequence, fun hm hf hl => ?limit, exec_mupdate_granted hc hin⟩
  case noKey =>
    exact exec_of_plan_stop (by
      rw [planOf, planMupdate, gated_ok hc, legalRange, (legal_iff _ _).2 hin, (Keys.hasMac_eq_false_iff _).2 hm]; rfl)
  case sequence =>
    exact exec_of_plan_stop (by
      rw [planOf, planMupdate, gated_ok hc, legalRange, (legal_iff _ _).2 hin, (Keys.hasMac_iff _).2 hm, hf]; rfl)
  case limit =>
    have hlim : (s.keys.macmode == .pmac && decide (pmacLimit < s.acc.pcnt + absorbed s.acc.pos len.toNat)) = true := by
      rw [hm]; exact decide_eq_true hl
    exact exec_of_plan_stop (by
      rw [planOf, planMupdate, gated_ok hc, legalRange, (legal_iff _ _).2 hin, (Keys.hasMac_iff _).2 (by simp [hm]), hf,
        hlim]
      rfl)

/-! ### MFINISH (R306) -/

theorem exec_mfinish_noMac (rd : BReg) {s : State} (hc : s.corrupt = false) (hm : s.keys.macmode = .none) :
    exec (.mfinish rd) s = .next (s.trap .noKey) :=
  exec_of_plan_stop (by rw [planOf, planMfinish, gated_ok hc, (Keys.hasMac_eq_false_iff _).2 hm]; rfl)

/-- Under a MAC key MFINISH finishes the message, with a request where no digest is cached (R306, R237). -/
theorem exec_mfinish_granted (rd : BReg) {s : State} (hc : s.corrupt = false) (hm : s.keys.macmode ≠ .none)
    (hg : s.Grants (macFinishReqs s.acc)) :
    exec (.mfinish rd) s = .next { s.spend (macFinishReqs s.acc) with
      br := s.br.set rd (macFinish s.keys.macEnc s.keys s.acc).dig, acc := macFinish s.keys.macEnc s.keys s.acc,
      cpc := s.cpc + 4#32 } := by
  rw [exec_eq_runPlan, planOf, planMfinish, gated_ok hc, (Keys.hasMac_iff _).2 hm]
  exact runPlan_completes hg rfl

/-- Settles O24: the cached digest needs no request, and else the engine chooses the last block. -/
theorem mfinishWritesDigest : Obligations.MfinishWritesDigest := by
  unfold Obligations.MfinishWritesDigest
  refine fun rd s hc => ⟨exec_mfinish_noMac rd hc, fun hm hf => ?cached, fun hm hf hg => ?fresh⟩
  case cached =>
    have hfin : macFinish s.keys.macEnc s.keys s.acc = s.acc := if_pos hf
    have hreqs : macFinishReqs s.acc = 0 := if_pos hf
    have hexec := exec_mfinish_granted rd hc hm (by rw [hreqs]; exact State.grants_zero s)
    rw [hfin, hreqs, State.spend_zero] at hexec
    exact ⟨_, hexec, BRegs.get_set_same .., fun r hr => BRegs.get_set_other s.br rd r _ hr⟩
  case fresh =>
    have hfin : macFinish s.keys.macEnc s.keys s.acc =
        { s.acc with dig := s.keys.macEnc (macLast s.keys s.acc), fin := true } := if_neg (by simp [hf])
    have hreqs : macFinishReqs s.acc = 1 := if_neg (by simp [hf])
    have hexec := exec_mfinish_granted rd hc hm (by rwa [hreqs])
    rw [hfin, hreqs] at hexec
    refine ⟨_, macLast s.keys s.acc, hexec, BRegs.get_set_same .., fun r hr => BRegs.get_set_other s.br rd r _ hr, ?_⟩
    refine ⟨fun h hp => ?_, fun h hp => ?_, fun h hp => ?_, fun h hp => ?_⟩
    · rw [macLast, h]; exact if_pos hp
    · rw [macLast, h]; exact if_neg (by omega)
    · rw [macLast, h]; exact if_pos hp
    · rw [macLast, h]; exact if_neg (by omega)

end Sys2Proof.Machine

/-!
PROOFS. KIMPORT (44_key_mac.md R300 to R302): the split of a key, what is derived from it, and a refused key.
-/

namespace Sys2Proof.Machine

open Spec

/-! ### The split of a key (R301) -/

theorem splitKey_of_lengthOk {mode : KeyMode} {key : Bytes} (h : lengthOk mode key.length) :
    splitKey mode key = some (macHalf mode key, ctrHalf mode key) := by
  cases mode with
  | cmac | pmac => exact if_pos h
  | siv | pmacsiv => exact if_neg (by simp [h.1, h.2])

theorem splitKey_of_not_lengthOk {mode : KeyMode} {key : Bytes} (h : ¬lengthOk mode key.length) :
    splitKey mode key = none := by
  cases mode with
  | cmac | pmac => exact if_neg h
  | siv | pmacsiv =>
    refine if_pos ?_
    simp only [lengthOk, not_and_or, Nat.mod_two_ne_zero, Bool.not_eq_true] at h
    simpa using h

/-- The CTR key of a SIV mode is not empty, so that its import makes one request more (R302). -/
theorem importReqs_ctrHalf {mode : KeyMode} {key : Bytes} (h : lengthOk mode key.length) :
    importReqs (ctrHalf mode key) = if isSiv mode then 3 else 2 := by
  cases mode with
  | cmac | pmac => rfl
  | siv | pmacsiv =>
    have hpos : 1 ≤ key.length / 2 := (acceptsKeyLen_bounds h.2).1
    exact if_neg (by simp only [ctrHalf, List.isEmpty_iff, List.drop_eq_nil_iff]; omega)

/-! ### What is derived from a MAC key (R302) -/

theorem Keys.imported_cmac {mode : KeyMode} (mk ck : Bytes) (h : isCmac mode = true) :
    let l := Config.bc mk 0#128
    let k := Keys.imported mode mk ck
    k.macmode = .cmac ∧ k.k1 = dbl l ∧ k.k2 = dbl (dbl l) ∧ (∀ i, k.mask i = 0#128) ∧ k.linv = 0#128 := by
  cases mode with
  | cmac | siv => exact ⟨rfl, rfl, rfl, mask_cleared, rfl⟩
  | pmac | pmacsiv => cases h

/-- The mask table holds the repeated doublings of `L` (R261). -/
theorem mask_pmacTable {k : Keys} {e : Block → Block} (h : k.lt = (pmacTable e).1) {i : Nat}
    (hi : i < Config.pmacLtab) : k.mask i = dblTimes i (e 0#128) := by
  have hlt : i < 31 := hi
  rw [Keys.mask, h, pmacTable, Vector.getElem?_eq_getElem hlt, Vector.getElem_ofFn, Option.getD_some]

theorem Keys.imported_pmac {mode : KeyMode} (mk ck : Bytes) (h : isCmac mode = false) :
    let l := Config.bc mk 0#128
    let k := Keys.imported mode mk ck
    k.macmode = .pmac ∧ k.k1 = 0#128 ∧ k.k2 = 0#128 ∧ k.mask 0 = l ∧
      (∀ i, i + 1 < Config.pmacLtab → k.mask (i + 1) = dbl (k.mask i)) ∧ dbl k.linv = l := by
  have htable : (Keys.imported mode mk ck).lt = (pmacTable (Config.bc mk)).1 := by
    cases mode with
    | cmac | siv => cases h
    | pmac | pmacsiv => rfl
  have hrest : (Keys.imported mode mk ck).macmode = .pmac ∧ (Keys.imported mode mk ck).k1 = 0#128 ∧
      (Keys.imported mode mk ck).k2 = 0#128 ∧ (Keys.imported mode mk ck).linv = halve (Config.bc mk 0#128) := by
    cases mode with
    | cmac | siv => cases h
    | pmac | pmacsiv => exact ⟨rfl, rfl, rfl, rfl⟩
  obtain ⟨hmode, hk1, hk2, hlinv⟩ := hrest
  refine ⟨hmode, hk1, hk2, mask_pmacTable htable (by decide), fun i hi => ?_, ?_⟩
  · rw [mask_pmacTable htable hi, mask_pmacTable htable (by omega), dblTimes]
  · rw [hlinv, dbl_halve]

/-! ### The command (R300) -/

/-- KIMPORT of an accepted key clears the engines and loads the key, a request for each import and one to derive. -/
theorem exec_kimport_granted {mode : KeyMode} {addr len : Word} {s : State}
    (hin : addr.toNat + len.toNat ≤ Config.memSize) (hok : lengthOk mode len.toNat)
    (hg : s.Grants (if isSiv mode then 3 else 2)) :
    exec (.kimport mode addr len) s = .next { s.spend (if isSiv mode then 3 else 2) with
      keys := Keys.imported mode (macHalf mode (s.operand addr len)) (ctrHalf mode (s.operand addr len)),
      acc := Acc.cleared, s2v := S2v.cleared, stream := Stream.cleared, corrupt := false, cpc := s.cpc + 12#32 } := by
  have hkey : lengthOk mode (s.operand addr len).length := by rwa [operand_length]
  rw [← importReqs_ctrHalf hkey] at hg ⊢
  rw [exec_eq_runPlan, planOf, planKimport, legalRange, (legal_iff _ _).2 hin, splitKey_of_lengthOk hkey]
  exact runPlan_completes hg rfl

/-- Settles O20: the split gives the halves, and the MAC construction fixes what is derived. -/
theorem kimportLoadsKey : Obligations.KimportLoadsKey := by
  unfold Obligations.KimportLoadsKey
  exact fun mode addr len s hin hok hg => ⟨_, exec_kimport_granted hin hok hg, Keys.imported_mkey ..,
    Keys.imported_ckey .., Keys.imported_cmac _ _, Keys.imported_pmac _ _⟩

/-- Settles O21: the range is checked before anything is cleared, the length after it and before any request. -/
theorem kimportRejectsKey : Obligations.KimportRejectsKey := by
  unfold Obligations.KimportRejectsKey
  refine fun mode addr len s => ⟨fun hout => ?_, fun hin hbad => ?_⟩
  · exact exec_of_plan_stop (by rw [planOf, planKimport, legalRange, (legal_eq_false_iff _ _).2 hout]; rfl)
  · have hkey : ¬lengthOk mode (s.operand addr len).length := by rwa [operand_length]
    rw [exec_eq_runPlan, planOf, planKimport, legalRange, (legal_iff _ _).2 hin, splitKey_of_not_lengthOk hkey]
    refine (runPlan_raises (State.grants_zero _) rfl).trans ?_
    rw [Job.plain_reqs, State.spend_zero]
    rfl

end Sys2Proof.Machine

/-!
PROOFS. Step-by-step S2V and CTRX (45_s2v_siv.md R344 to R346, R350), each command past its checks and at each of them,
and the S2V commands run one after another.
-/

namespace Sys2Proof.Machine

open Spec

/-! ### Answers left after some are used up (R33) -/

theorem State.answer_spend (s : State) (m k : Nat) : (s.spend m).answer k = s.answer (m + k) := by
  simp [State.answer, State.spend, Nat.add_assoc]

theorem State.Grants.left {s : State} {m n : Nat} (h : s.Grants (m + n)) : s.Grants m :=
  fun k hk => h k (by omega)

/-- Of requests that are granted, those after the first `m` are granted in a state in which `m` answers are used up. -/
theorem State.Grants.right {s t : State} {m n : Nat} (h : s.Grants (m + n)) (ha : t.answers = (s.spend m).answers)
    (hr : t.reqs = (s.spend m).reqs) (hd : t.draws = s.draws) : t.Grants n := by
  intro k hk
  have hans : t.answer k = (s.spend m).answer k := by rw [State.answer, ha, hr, hd, State.answer, State.spend_draws]
  rw [hans, State.answer_spend]
  exact h _ (by omega)

/-! ### S2VINIT (R344) -/

/-- The state after `reqs` requests with an S2V in progress whose running value is `d` after `nad` AD strings. -/
def State.s2vActive (s : State) (reqs : Nat) (d : Block) (nad : Nat) (cpc : Word) : State :=
  { s.spend reqs with acc := idleAcc s, s2v := ⟨true, d, nad⟩, cpc := cpc }

theorem sameData_s2vActive (s : State) (reqs : Nat) (d : Block) (nad : Nat) (cpc : Word) :
    SameData s (s.s2vActive reqs d nad cpc) := ⟨rfl, rfl, rfl, rfl, rfl⟩

theorem exec_s2vinit_noMac {s : State} (hc : s.corrupt = false) (hm : s.keys.macmode = .none) :
    exec .s2vinit s = .next (s.trap .noKey) :=
  exec_of_plan_stop (by rw [planOf, planS2vinit, gated_ok hc, (Keys.hasMac_eq_false_iff _).2 hm]; rfl)

theorem exec_s2vinit_granted {s : State} (hc : s.corrupt = false) (hm : s.keys.macmode ≠ .none) (hg : s.Grants 1) :
    exec .s2vinit s = .next (s.s2vActive 1 (s2vStart s.keys.macEnc s.keys) 0 (s.cpc + 4#32)) := by
  rw [exec_eq_runPlan, planOf, planS2vinit, gated_ok hc, (Keys.hasMac_iff _).2 hm]
  exact runPlan_completes hg rfl

/-- Settles O31: no MAC key is the one check, and the MAC of one block takes one request. -/
theorem s2vinitStarts : Obligations.S2vinitStarts := by
  unfold Obligations.S2vinitStarts
  exact ⟨rfl, fun s hc => ⟨exec_s2vinit_noMac hc, exec_s2vinit_granted hc⟩⟩

/-! ### S2VAD (R345) -/

/-- Past its checks S2VAD absorbs one AD string. -/
theorem exec_s2vad_granted {addr len : Word} {s : State} (hc : s.corrupt = false)
    (hin : addr.toNat + len.toNat ≤ Config.memSize) (hm : s.keys.macmode ≠ .none) (ha : s.s2v.act = true)
    (hn : s.s2v.nad ≠ Config.maxAd) (hg : s.Grants (mac1Reqs len.toNat)) :
    exec (.s2vad addr len) s = .next (s.s2vActive (mac1Reqs len.toNat)
      (s2vAbsorb s.keys.macEnc s.keys s.s2v.d (s.operand addr len)) (s.s2v.nad + 1) (s.cpc + 12#32)) := by
  rw [exec_eq_runPlan, planOf, planS2vad, gated_ok hc, legalRange, (legal_iff _ _).2 hin, (Keys.hasMac_iff _).2 hm, ha,
    if_neg hn]
  exact runPlan_completes hg rfl

/-- Settles O32: each check with the ones before it passed, then the string absorbed. -/
theorem s2vadAbsorbs : Obligations.S2vadAbsorbs := by
  unfold Obligations.S2vadAbsorbs
  refine fun addr len s hc => ⟨fun hout => ?_, fun hin => ?_⟩
  · exact exec_of_plan_stop (by rw [planOf, planS2vad, gated_ok hc, legalRange, (legal_eq_false_iff _ _).2 hout]; rfl)
  refine ⟨fun hm => ?noKey, fun hm ha => ?sequence, fun hm ha hn => ?adLimit, exec_s2vad_granted hc hin⟩
  case noKey =>
    exact exec_of_plan_stop (by
      rw [planOf, planS2vad, gated_ok hc, legalRange, (legal_iff _ _).2 hin, (Keys.hasMac_eq_false_iff _).2 hm]; rfl)
  case sequence =>
    exact exec_of_plan_stop (by
      rw [planOf, planS2vad, gated_ok hc, legalRange, (legal_iff _ _).2 hin, (Keys.hasMac_iff _).2 hm, ha]; rfl)
  case adLimit =>
    have hmax : s.s2v.nad = Config.maxAd := hn
    exact exec_of_plan_stop (by
      rw [planOf, planS2vad, gated_ok hc, legalRange, (legal_iff _ _).2 hin, (Keys.hasMac_iff _).2 hm, ha, if_pos hmax]
      rfl)

/-! ### S2VFIN (R346) -/

/-- T has at least one block (R340). -/
theorem s2vLastReqs_eq (n : Nat) : s2vLastReqs n = mac1Reqs (max 16 n) := congrArg mac1Reqs (max_def 16 n).symm

/-- Past its checks S2VFIN writes the MAC of T and leaves the S2V idle. -/
theorem exec_s2vfin_granted (rd : BReg) {addr len : Word} {s : State} (hc : s.corrupt = false)
    (hin : addr.toNat + len.toNat ≤ Config.memSize) (hm : s.keys.macmode ≠ .none) (ha : s.s2v.act = true)
    (hg : s.Grants (mac1Reqs (max 16 len.toNat))) :
    exec (.s2vfin rd addr len) s = .next { s.spend (mac1Reqs (max 16 len.toNat)) with
      br := s.br.set rd (mac1 s.keys.macEnc s.keys (s2vLast s.s2v.d (s.operand addr len))),
      acc := idleAcc s, s2v := S2v.cleared, cpc := s.cpc + 12#32 } := by
  rw [← s2vLastReqs_eq] at hg ⊢
  rw [exec_eq_runPlan, planOf, planS2vfin, gated_ok hc, legalRange, (legal_iff _ _).2 hin, (Keys.hasMac_iff _).2 hm, ha]
  exact runPlan_completes hg rfl

/-- Settles O33: each check with the ones before it passed, then the tag in the register. -/
theorem s2vfinWritesTag : Obligations.S2vfinWritesTag := by
  unfold Obligations.S2vfinWritesTag
  refine fun rd addr len s hc => ⟨fun hout => ?_, fun hin => ⟨fun hm => ?noKey, fun hm ha => ?sequence,
    fun hm ha hg => ?_⟩⟩
  · exact exec_of_plan_stop (by rw [planOf, planS2vfin, gated_ok hc, legalRange, (legal_eq_false_iff _ _).2 hout]; rfl)
  case noKey =>
    exact exec_of_plan_stop (by
      rw [planOf, planS2vfin, gated_ok hc, legalRange, (legal_iff _ _).2 hin, (Keys.hasMac_eq_false_iff _).2 hm]; rfl)
  case sequence =>
    exact exec_of_plan_stop (by
      rw [planOf, planS2vfin, gated_ok hc, legalRange, (legal_iff _ _).2 hin, (Keys.hasMac_iff _).2 hm, ha]; rfl)
  · exact ⟨_, exec_s2vfin_granted rd hc hin hm ha hg, BRegs.get_set_same ..,
      fun r hr => BRegs.get_set_other s.br rd r _ hr⟩

/-! ### The S2V commands one after another (R340) -/

theorem execAll_cons {i : Instr} {s t : State} (h : exec i s = .next t) (is : List Instr) :
    execAll (i :: is) s = execAll is t := by rw [execAll, h]

theorem SameData.operand {s t : State} (h : SameData s t) : t.operand = s.operand :=
  funext fun _ => funext fun _ => h.readBytes _ _

/-- With an S2V active, S2VADs and S2VFIN absorb their strings into D and write the MAC of T. -/
theorem execAll_s2vads (rd : BReg) (ads : List (Word × Word)) {addr len : Word} {s : State} (hc : s.corrupt = false)
    (hm : s.keys.macmode ≠ .none) (ha : s.s2v.act = true) (hn : s.s2v.nad + ads.length ≤ Config.maxAd)
    (hads : ∀ p ∈ ads, p.1.toNat + p.2.toNat ≤ Config.memSize) (hin : addr.toNat + len.toNat ≤ Config.memSize)
    (hg : s.Grants ((ads.map fun p => mac1Reqs p.2.toNat).sum + mac1Reqs (max 16 len.toNat))) :
    ∃ t, execAll ((ads.map fun p => .s2vad p.1 p.2) ++ [.s2vfin rd addr len]) s = .next t ∧
      t.getBr rd = mac1 s.keys.macEnc s.keys (s2vLast
        ((ads.map fun p => s.operand p.1 p.2).foldl (s2vAbsorb s.keys.macEnc s.keys) s.s2v.d)
        (s.operand addr len)) := by
  induction ads generalizing s with
  | nil =>
    rw [List.map_nil, List.sum_nil, Nat.zero_add] at hg
    exact ⟨_, execAll_cons (exec_s2vfin_granted rd hc hin hm ha hg) [], BRegs.get_set_same ..⟩
  | cons p ads ih =>
    rw [List.map_cons, List.sum_cons, Nat.add_assoc] at hg
    rw [List.length_cons] at hn
    have hexec := exec_s2vad_granted hc (hads p List.mem_cons_self) hm ha (by omega) hg.left
    obtain ⟨t, ht, hget⟩ := ih (s := s.s2vActive (mac1Reqs p.2.toNat)
      (s2vAbsorb s.keys.macEnc s.keys s.s2v.d (s.operand p.1 p.2)) (s.s2v.nad + 1) (s.cpc + 12#32)) hc hm rfl
      (by simp only [State.s2vActive]; omega) (fun q hq => hads q (List.mem_cons_of_mem _ hq)) (hg.right rfl rfl rfl)
    rw [(sameData_s2vActive ..).operand] at hget
    exact ⟨t, (execAll_cons hexec _).trans ht, hget⟩

/-- Settles O34: S2VINIT starts D, and the rest is the fold over the strings. -/
theorem stepByStepS2v : Obligations.StepByStepS2v := by
  unfold Obligations.StepByStepS2v
  intro rd ads addr len s hc hm hn hads hin strings hg
  have hsum : (strings.map fun x => mac1Reqs x.length) = ads.map fun p => mac1Reqs p.2.toNat := by simp [strings]
  rw [hsum, Nat.add_assoc] at hg
  obtain ⟨t, ht, hget⟩ := execAll_s2vads rd ads
    (s := s.s2vActive 1 (s2vStart s.keys.macEnc s.keys) 0 (s.cpc + 4#32)) hc hm rfl ((Nat.zero_add _).trans_le hn)
    hads hin (hg.right rfl rfl rfl)
  rw [(sameData_s2vActive ..).operand] at hget
  exact ⟨t, (execAll_cons (exec_s2vinit_granted hc hm hg.left) _).trans ht, hget⟩

/-! ### CTRX (R350) -/

/-- Past its checks CTRX stores the transform of its source, read before anything is written (R350, R109). -/
theorem exec_ctrx_granted (rs : BReg) {src len dst : Word} {s : State} (hc : s.corrupt = false)
    (hsrc : src.toNat + len.toNat ≤ Config.memSize) (hdst : dst.toNat + len.toNat ≤ Config.memSize)
    (hk : s.keys.ckey ≠ []) (hg : s.Grants (ctrReqs len.toNat)) :
    ∃ t m, exec (.ctrx rs src len dst) s = .next t ∧
      t = { s.spend (ctrReqs len.toNat) with mem := m, cpc := s.cpc + 16#32 } ∧
      Stored s t dst.toNat (ctr (Config.bc s.keys.ckey) (s.getBr rs) (s.operand src len)) := by
  have hkey : s.keys.ctrkey = true := by simpa [Keys.ctrkey] using hk
  refine ⟨_, _, ?_, rfl, stored_of_writeBytes (by rwa [ctr_length, operand_length]) rfl rfl⟩
  rw [exec_eq_runPlan, planOf, planCtrx, gated_ok hc, legalRange, legalRange, (legal_iff _ _).2 hsrc,
    (legal_iff _ _).2 hdst, hkey]
  refine (runPlan_completes hg rfl).trans ?_
  rw [Job.plain_final, State.writeBytes_eq]
  rfl

/-- Settles O37: each check with the ones before it passed, then the transform stored. -/
theorem ctrxTransforms : Obligations.CtrxTransforms := by
  unfold Obligations.CtrxTransforms
  refine fun rs src len dst s hc => ⟨fun hout => ?_, fun hsrc hdst => ⟨fun hk => ?_, exec_ctrx_granted rs hc hsrc hdst⟩⟩
  · have hplan : planOf (.ctrx rs src len dst) s = .stop .addr s := by
      rw [planOf, planCtrx, gated_ok hc]
      rcases hout with hsrc | hdst
      · rw [legalRange, legalRange, (legal_eq_false_iff _ _).2 hsrc]; rfl
      · rw [legalRange, legalRange, (legal_eq_false_iff _ _).2 hdst]
        exact ite_self _
    exact exec_of_plan_stop hplan
  · have hno : s.keys.ctrkey = false := by simp [Keys.ctrkey, hk]
    exact exec_of_plan_stop (by
      rw [planOf, planCtrx, gated_ok hc, legalRange, legalRange, (legal_iff _ _).2 hsrc, (legal_iff _ _).2 hdst, hno]
      rfl)

end Sys2Proof.Machine

/-!
PROOFS. The whole-message SIV and AEAD commands past their checks (45_s2v_siv.md R352 to R357, 46_aead.md R400 to R402).
Their plans are ranges checked in order, the keys and the AD limit, and then one sealing or opening job, which the
STREAM commands share.
-/

namespace Sys2Proof.Machine

open Spec

/-! ### Plans as checks in order (R462) -/

/-- A plan behind the checks that ranges lie in MEM (R102). -/
def checked (s : State) (ranges : List (Nat × Nat)) (next : Plan) : Plan :=
  ranges.foldr (fun r p => if !legal r.1 r.2 then .stop .addr s else p) next

theorem checked_of_inMem {s : State} {ranges : List (Nat × Nat)} (h : ∀ r ∈ ranges, InMem r) (next : Plan) :
    checked s ranges next = next := by
  induction ranges with
  | nil => rfl
  | cons r rs ih =>
    have hr : legal r.1 r.2 = true := (legal_iff _ _).2 (h r List.mem_cons_self)
    rw [checked, List.foldr_cons, hr]
    exact ih fun q hq => h q (List.mem_cons_of_mem _ hq)

theorem checked_of_not_inMem {s : State} {ranges : List (Nat × Nat)} (h : ∃ r ∈ ranges, ¬InMem r) (next : Plan) :
    checked s ranges next = .stop .addr s := by
  induction ranges with
  | nil => simp at h
  | cons r rs ih =>
    rw [checked, List.foldr_cons]
    split
    · rfl
    next hr =>
      have hin : InMem r := (legal_iff _ _).1 (by simpa using hr)
      have hrest : ∃ q ∈ rs, ¬InMem q := by simpa [hin] using h
      exact ih hrest

/-- A plan behind the check of the keys and of the number of AD strings (R354). -/
def keyed (s : State) (strings : Nat) (next : Plan) : Plan :=
  if !s.keys.hasBoth then .stop .noKey s else if Config.maxAd < strings then .stop .adLimit s else next

theorem keyed_of_bothKeys {s : State} {strings : Nat} (hk : BothKeys s) (hn : strings ≤ Config.maxAd) (next : Plan) :
    keyed s strings next = next := by
  rw [keyed, (hasBoth_iff_bothKeys s).2 hk]
  exact if_neg (Nat.not_lt.2 hn)

/-- A plan behind the check that a sealed input holds a tag (R355). -/
def tagged (s : State) (len : Nat) (next : Plan) : Plan := if len < 16 then .stop .integrity s else next

section Plans

variable {s : State} {desc : Word} {ads : List Bytes} (hc : s.corrupt = false) (hads : s.readAds desc = .ok ads)

include hc hads

theorem planOf_sivseal (src len dst : Word) : planOf (.sivseal desc src len dst) s =
    checked s [(src.toNat, len.toNat), (dst.toNat, 16 + len.toNat)]
      (keyed s ads.length (.go (sealJob ads (s.operand src len) dst.toNat id s))) := by
  rw [planOf, planSivseal, gated_ok hc, hads]
  rfl

theorem planOf_sivopen (src len dst : Word) : planOf (.sivopen desc src len dst) s =
    checked s [(src.toNat, len.toNat), (dst.toNat, openLen len.toNat)]
      (keyed s ads.length (tagged s len.toNat (.go (openJob ads (s.operand src len) dst.toNat id s)))) := by
  rw [planOf, planSivopen, gated_ok hc, hads]
  rfl

theorem planOf_aeadseal (nonce nlen src len dst : Word) : planOf (.aeadseal desc nonce nlen src len dst) s =
    checked s [(nonce.toNat, nlen.toNat), (src.toNat, len.toNat), (dst.toNat, 16 + len.toNat)]
      (keyed s (ads.length + 1)
        (.go (sealJob (ads ++ [s.operand nonce nlen]) (s.operand src len) dst.toNat id s))) := by
  rw [planOf, planAeadseal, gated_ok hc, hads]
  rfl

theorem planOf_aeadopen (nonce nlen src len dst : Word) : planOf (.aeadopen desc nonce nlen src len dst) s =
    checked s [(nonce.toNat, nlen.toNat), (src.toNat, len.toNat), (dst.toNat, openLen len.toNat)]
      (keyed s (ads.length + 1) (tagged s len.toNat
        (.go (openJob (ads ++ [s.operand nonce nlen]) (s.operand src len) dst.toNat id s)))) := by
  rw [planOf, planAeadopen, gated_ok hc, hads]
  rfl

end Plans

theorem openLen_of_tagged {len : Nat} (h : 16 ≤ len) : openLen len = len - 16 := if_pos h

theorem tagged_of_le (s : State) {len : Nat} (h : 16 ≤ len) (next : Plan) : tagged s len next = next :=
  if_neg (Nat.not_lt.2 h)

theorem tagged_of_short (s : State) {len : Nat} (h : len < 16) (next : Plan) :
    tagged s len next = .stop .integrity s := if_pos h

/-! ### One sealing or opening job (R352, R353, R357, R465) -/

theorem sivReqs_eq (ads : List Bytes) (n : Nat) : sivReqs ads n = messageReqs ads n := by
  rw [sivReqs, s2vReqs, s2vLastReqs_eq]
  rfl

/-- The state after `reqs` requests with the string `out` written at `dst`, both engines idle and the stream `st`. -/
def State.wrote (s : State) (reqs dst : Nat) (out : Bytes) (st : Stream) : State :=
  { s.spend reqs with
    mem := (s.writeBytes dst out).mem, acc := idleAcc s, s2v := S2v.cleared, stream := st }

theorem spend_s2vIdle (s : State) (reqs dst : Nat) (out : Bytes) :
    (s.writeBytes dst out).s2vIdle.spend reqs = s.wrote reqs dst out s.stream := by
  rw [State.writeBytes_eq]
  rfl

/-- What a job leaves after its write to MEM, where its last step sets the stream only. -/
theorem wrote_of_after {after : State → State} {f : Stream → Stream}
    (h : ∀ u, after u = { u with stream := f u.stream }) (s : State) (reqs dst : Nat) (out : Bytes) :
    (after (s.writeBytes dst out).s2vIdle).spend reqs = s.wrote reqs dst out (f s.stream) := by
  rw [h, State.writeBytes_eq]
  rfl

section Jobs

variable {i : Instr} {s : State} {ads : List Bytes} {dst : Nat} {after : State → State}

/-- An opening job whose requests are granted writes zeros for a string that does not open, and raises INTEGRITY with
the stream as it was. -/
theorem exec_of_openJob_mismatch {x : Bytes} (hp : planOf i s = .go (openJob ads x dst after s))
    (hopen : sivOpen Config.bc s.keys ads x = none) (hg : s.Grants (messageReqs ads (openLen x.length))) :
    exec i s = .next ((s.wrote (messageReqs ads (openLen x.length)) dst
      (List.replicate (openLen x.length) 0#8) s.stream).trap .integrity) := by
  rw [← sivReqs_eq] at hg ⊢
  rw [exec_eq_runPlan, hp, openJob, hopen, ← spend_s2vIdle]
  exact runPlan_raises hg rfl

variable {f : Stream → Stream} (hafter : ∀ u, after u = { u with stream := f u.stream })

include hafter

/-- A sealing job whose requests are granted writes the sealed string. -/
theorem exec_of_sealJob {p : Bytes} (hp : planOf i s = .go (sealJob ads p dst after s))
    (hg : s.Grants (messageReqs ads p.length)) :
    exec i s = .next ((s.wrote (messageReqs ads p.length) dst (sivSeal Config.bc s.keys ads p) (f s.stream)).advance
      (Instr.moves i)) := by
  rw [← sivReqs_eq] at hg ⊢
  rw [exec_eq_runPlan, hp, ← wrote_of_after hafter]
  exact runPlan_completes hg rfl

/-- An opening job whose requests are granted writes the plaintext of a string that opens. -/
theorem exec_of_openJob {x p : Bytes} (hp : planOf i s = .go (openJob ads x dst after s))
    (hopen : sivOpen Config.bc s.keys ads x = some p) (hg : s.Grants (messageReqs ads (openLen x.length))) :
    exec i s = .next ((s.wrote (messageReqs ads (openLen x.length)) dst p (f s.stream)).advance (Instr.moves i)) := by
  rw [← sivReqs_eq] at hg ⊢
  rw [exec_eq_runPlan, hp, openJob, hopen, ← wrote_of_after hafter]
  exact runPlan_completes hg rfl

end Jobs

/-- A command whose plan is a sealing job stores the sealed string and leaves the engines idle. -/
theorem stored_of_sealJob {i : Instr} {s : State} {ads : List Bytes} {src len dst : Word} {after : State → State}
    {f : Stream → Stream} (hafter : ∀ u, after u = { u with stream := f u.stream })
    (hp : planOf i s = .go (sealJob ads (s.operand src len) dst.toNat after s))
    (hdst : dst.toNat + (16 + len.toNat) ≤ Config.memSize) (hg : s.Grants (messageReqs ads len.toNat)) :
    ∃ t m, exec i s = .next t ∧
      t = { s.spend (messageReqs ads len.toNat) with
        mem := m, acc := idleAcc s, s2v := ⟨false, 0#128, 0⟩, stream := f s.stream,
        cpc := s.cpc + BitVec.ofNat 32 (Instr.moves i) } ∧
      Stored s t dst.toNat (sivSeal Config.bc s.keys ads (s.readBytes src.toNat len.toNat)) := by
  have hexec := exec_of_sealJob hafter hp (by rwa [operand_length])
  rw [operand_length] at hexec
  exact ⟨_, _, hexec, rfl, stored_of_writeBytes (by rwa [sivSeal_length, State.readBytes_length]) rfl rfl⟩

/-- A command whose plan is an opening job stores the plaintext where the tags agree, else zeros with INTEGRITY. -/
theorem stored_of_openJob {i : Instr} {s : State} {ads : List Bytes} {src len dst : Word} {after : State → State}
    {f : Stream → Stream} (hafter : ∀ u, after u = { u with stream := f u.stream })
    (hp : planOf i s = .go (openJob ads (s.operand src len) dst.toNat after s)) (hlen : 16 ≤ len.toNat)
    (hdst : dst.toNat + (len.toNat - 16) ≤ Config.memSize) (hg : s.Grants (messageReqs ads (len.toNat - 16))) :
    let x := s.readBytes src.toNat len.toNat
    let v := blockOf (x.take 16)
    let p := ctr (Config.bc s.keys.ckey) (ivq v) (x.drop 16)
    (s2vTag (Config.bc s.keys.mkey) s.keys ads p = v →
      ∃ t m, exec i s = .next t ∧
        t = { s.spend (messageReqs ads (len.toNat - 16)) with
          mem := m, acc := idleAcc s, s2v := ⟨false, 0#128, 0⟩, stream := f s.stream,
          cpc := s.cpc + BitVec.ofNat 32 (Instr.moves i) } ∧
        Stored s t dst.toNat p) ∧
    (s2vTag (Config.bc s.keys.mkey) s.keys ads p ≠ v →
      ∃ t m, exec i s = .next t ∧
        t = State.trap { s.spend (messageReqs ads (len.toNat - 16)) with
          mem := m, acc := idleAcc s, s2v := ⟨false, 0#128, 0⟩ } .integrity ∧
        Stored s t dst.toNat (List.replicate (len.toNat - 16) 0#8)) := by
  intro x v p
  have hreqs : openLen (s.operand src len).length = len.toNat - 16 := by
    rw [operand_length, openLen_of_tagged hlen]
  refine ⟨fun htag => ?_, fun htag => ?_⟩
  · have hplen : p.length = len.toNat - 16 := by simp [p, x]
    have hexec := exec_of_openJob hafter hp (if_pos htag) (by rwa [hreqs])
    rw [hreqs] at hexec
    exact ⟨_, _, hexec, rfl, stored_of_writeBytes (by rwa [hplen]) rfl rfl⟩
  · have hexec := exec_of_openJob_mismatch hp (if_neg htag) (by rwa [hreqs])
    rw [hreqs] at hexec
    exact ⟨_, _, hexec, rfl, stored_of_writeBytes (by rwa [List.length_replicate]) rfl rfl⟩

/-! ### The commands past their checks -/

theorem planOf_sivseal_job {desc src len dst : Word} {s : State} {ads : List Bytes} (hc : s.corrupt = false)
    (hads : s.readAds desc = .ok ads) (hsrc : src.toNat + len.toNat ≤ Config.memSize)
    (hdst : dst.toNat + (16 + len.toNat) ≤ Config.memSize) (hk : BothKeys s) (hn : ads.length ≤ Config.maxAd) :
    planOf (.sivseal desc src len dst) s = .go (sealJob ads (s.operand src len) dst.toNat id s) := by
  rw [planOf_sivseal hc hads, checked_of_inMem (by simp [InMem, hsrc, hdst]), keyed_of_bothKeys hk hn]

theorem planOf_sivopen_job {desc src len dst : Word} {s : State} {ads : List Bytes} (hc : s.corrupt = false)
    (hads : s.readAds desc = .ok ads) (hsrc : src.toNat + len.toNat ≤ Config.memSize) (hlen : 16 ≤ len.toNat)
    (hdst : dst.toNat + (len.toNat - 16) ≤ Config.memSize) (hk : BothKeys s) (hn : ads.length ≤ Config.maxAd) :
    planOf (.sivopen desc src len dst) s = .go (openJob ads (s.operand src len) dst.toNat id s) := by
  rw [planOf_sivopen hc hads, openLen_of_tagged hlen, checked_of_inMem (by simp [InMem, hsrc, hdst]),
    keyed_of_bothKeys hk hn, tagged_of_le s hlen]

/-- Settles O39: past its checks SIVSEAL is one sealing job. -/
theorem sivsealWritesSealed : Obligations.SivsealWritesSealed := by
  unfold Obligations.SivsealWritesSealed
  exact fun desc src len dst s ads hc hads hsrc hdst hk hn hg =>
    stored_of_sealJob (f := id) (fun _ => rfl) (planOf_sivseal_job hc hads hsrc hdst hk hn) hdst hg

/-- Settles O40: past its checks SIVOPEN is one opening job. -/
theorem sivopenWritesPlaintextOrZeros : Obligations.SivopenWritesPlaintextOrZeros := by
  unfold Obligations.SivopenWritesPlaintextOrZeros
  exact fun desc src len dst s ads hc hads hsrc hlen hdst hk hn hg =>
    stored_of_openJob (f := id) (fun _ => rfl) (planOf_sivopen_job hc hads hsrc hlen hdst hk hn) hlen hdst hg

/-- Settles O44: past its checks AEADOPEN is one opening job, the nonce its last AD string. -/
theorem aeadopenWritesPlaintextOrZeros : Obligations.AeadopenWritesPlaintextOrZeros := by
  unfold Obligations.AeadopenWritesPlaintextOrZeros
  intro desc nonce nlen src len dst s ads hc hads hnonce hsrc hlen hdst hk hn all hg
  refine stored_of_openJob (i := .aeadopen desc nonce nlen src len dst) (after := id) (f := id) (fun _ => rfl) ?_ hlen
    hdst hg
  rw [planOf_aeadopen hc hads, openLen_of_tagged hlen, checked_of_inMem (by simp [InMem, hnonce, hsrc, hdst]),
    keyed_of_bothKeys hk hn, tagged_of_le s hlen]
  rfl

/-- Settles O43: AEADSEAL and SIVSEAL of the same strings are the same sealing job. -/
theorem aeadsealIsSivsealWithNonce : Obligations.AeadsealIsSivsealWithNonce := by
  unfold Obligations.AeadsealIsSivsealWithNonce
  intro desc nonce nlen src len dst s ads hc hads hnonce hsrc hdst hk hn hg
  have haead : planOf (.aeadseal desc nonce nlen src len dst) s =
      .go (sealJob (ads ++ [s.operand nonce nlen]) (s.operand src len) dst.toNat id s) := by
    rw [planOf_aeadseal hc hads, checked_of_inMem (by simp [InMem, hnonce, hsrc, hdst]), keyed_of_bothKeys hk hn]
  obtain ⟨t, m, hexec, ht, hst⟩ := stored_of_sealJob (f := id) (fun _ => rfl) haead hdst hg
  refine ⟨t, m, hexec, ht, hst, fun desc' hads' => ?_⟩
  have hsiv := planOf_sivseal_job hc hads' hsrc hdst hk (by rwa [List.length_append])
  have hgrants : s.Grants (messageReqs (ads ++ [s.operand nonce nlen]) (s.operand src len).length) := by
    rwa [operand_length]
  have heq := hexec.symm.trans (exec_of_sealJob (f := id) (fun _ => rfl) haead hgrants)
  rw [exec_of_sealJob (f := id) (fun _ => rfl) hsiv hgrants, Host.Outcome.next.inj heq]
  rfl

/-! ### Sealing, then opening (R352, R353) -/

theorem exec_sivseal_granted {desc src len dst : Word} {s : State} {ads : List Bytes} (hc : s.corrupt = false)
    (hads : s.readAds desc = .ok ads) (hsrc : src.toNat + len.toNat ≤ Config.memSize)
    (hdst : dst.toNat + (16 + len.toNat) ≤ Config.memSize) (hk : BothKeys s) (hn : ads.length ≤ Config.maxAd)
    (hg : s.Grants (messageReqs ads len.toNat)) :
    exec (.sivseal desc src len dst) s = .next ((s.wrote (messageReqs ads len.toNat) dst.toNat
      (sivSeal Config.bc s.keys ads (s.operand src len)) s.stream).advance 20) := by
  have hexec := exec_of_sealJob (f := id) (fun _ => rfl) (planOf_sivseal_job hc hads hsrc hdst hk hn)
    (by rwa [operand_length])
  rwa [operand_length] at hexec

theorem exec_sivopen_granted {desc src len dst : Word} {s : State} {ads : List Bytes} {p : Bytes}
    (hc : s.corrupt = false) (hads : s.readAds desc = .ok ads) (hsrc : src.toNat + len.toNat ≤ Config.memSize)
    (hlen : 16 ≤ len.toNat) (hdst : dst.toNat + (len.toNat - 16) ≤ Config.memSize) (hk : BothKeys s)
    (hn : ads.length ≤ Config.maxAd) (hg : s.Grants (messageReqs ads (len.toNat - 16)))
    (hopen : sivOpen Config.bc s.keys ads (s.operand src len) = some p) :
    exec (.sivopen desc src len dst) s =
      .next ((s.wrote (messageReqs ads (len.toNat - 16)) dst.toNat p s.stream).advance 20) := by
  have hexec := exec_of_openJob (f := id) (fun _ => rfl) (planOf_sivopen_job hc hads hsrc hlen hdst hk hn) hopen
    (by rwa [operand_length, openLen_of_tagged hlen])
  rwa [operand_length, openLen_of_tagged hlen] at hexec

/-- Past its write, a sealing command changes nothing that a later command reads as data. -/
theorem sameData_wrote (s : State) (reqs dst : Nat) (out : Bytes) (n : Nat) :
    SameData (s.writeBytes dst out) ((s.wrote reqs dst out s.stream).advance n) := by
  rw [State.writeBytes_eq]
  exact ⟨rfl, rfl, rfl, rfl, rfl⟩

theorem readBytes_of_stored {s t : State} {a n : Nat} {v : Bytes} (h : Stored s t a v) (hn : v.length = n) :
    t.readBytes a n = v := hn ▸ h.1

/-- Settles O42: SIVOPEN reads back what SIVSEAL stored, under the same keys and AD strings. -/
theorem sealThenOpenRestoresPlaintext : Obligations.SealThenOpenRestoresPlaintext := by
  unfold Obligations.SealThenOpenRestoresPlaintext
  intro desc src len dst olen dst2 s ads hc herr hads hsrc hdst hdst2 holen hk hn hg hads'
  have hsub : olen.toNat - 16 = len.toNat := by omega
  have hseal := exec_sivseal_granted hc hads hsrc hdst hk hn hg.left
  have hsame := sameData_wrote s (messageReqs ads len.toNat) dst.toNat
    (sivSeal Config.bc s.keys ads (s.operand src len)) 20
  generalize hu : (s.wrote (messageReqs ads len.toNat) dst.toNat
    (sivSeal Config.bc s.keys ads (s.operand src len)) s.stream).advance 20 = u at hseal hsame
  have hread : u.operand dst olen = sivSeal Config.bc s.keys ads (s.operand src len) := by
    rw [hsame.operand]
    exact readBytes_of_stored (stored_of_writeBytes (s := s) (by simpa using hdst) rfl (State.writeBytes_epoch ..))
      (by simp [holen])
  have hopen := exec_sivopen_granted (src := dst) (len := olen) (dst := dst2) (p := s.operand src len)
    (by rw [← hu]; exact hc) ((hsame.readAds desc).trans hads') (by rwa [holen]) (by omega) (by rwa [hsub])
    (by rw [← hu]; exact hk) hn (by rw [hsub, ← hu]; exact hg.right rfl rfl rfl)
    (by rw [hread, ← hu]; exact sivOpen_sivSeal ..)
  refine ⟨_, (execAll_cons hseal _).trans (execAll_cons hopen []), by rw [← hu]; exact herr, ?_⟩
  exact readBytes_of_stored (stored_of_writeBytes (s := u) (by rwa [State.readBytes_length]) rfl rfl)
    (State.readBytes_length ..)

end Sys2Proof.Machine

/-!
PROOFS. Reading an AD descriptor list (20_memory.md R103, R117; 45_s2v_siv.md R351), the checks of the whole-message
commands in their order (R354, R355, R401, R402, R462), and the STREAM commands (47_stream.md R421 to R426).
-/

namespace Sys2Proof.Machine

open Spec

/-! ### Reading an AD list (R103, R117, R351) -/

theorem toNat_append_byte {n : Nat} (x : BitVec n) (b : Byte) : (x ++ b).toNat = x.toNat * 2 ^ 8 + b.toNat := by
  rw [BitVec.toNat_append, ← Nat.shiftLeft_add_eq_or_of_lt b.isLt, Nat.shiftLeft_eq]

/-- A word of MEM is big-endian (R103). -/
theorem word_toNat (s : State) (a : Nat) : (s.word a).toNat = (s.byteAt a).toNat * 2 ^ 24 +
    (s.byteAt (a + 1)).toNat * 2 ^ 16 + (s.byteAt (a + 2)).toNat * 2 ^ 8 + (s.byteAt (a + 3)).toNat := by
  simp only [State.word, beword, toNat_append_byte]
  ring

/-- Pair `k` of a descriptor list stands `8k` past its first pair (R117). -/
theorem descPairs_eq (s : State) (a n : Nat) :
    s.descPairs a n = (List.range n).map fun k => ((s.word (a + 8 * k)).toNat, (s.word (a + 4 + 8 * k)).toNat) := by
  induction n generalizing a with
  | zero => rfl
  | succ n ih =>
    rw [State.descPairs, ih, List.range_succ_eq_map, List.map_cons, List.map_map]
    refine congrArg (_ :: ·) (List.map_congr_left fun k _ => ?_)
    simp only [Function.comp_apply, Nat.mul_succ]
    rw [show a + 8 + 8 * k = a + (8 * k + 8) by omega, show a + 8 + 4 + 8 * k = a + 4 + (8 * k + 8) by omega]

theorem descPairs_entries (s : State) (desc : Word) (n : Nat) :
    s.descPairs (desc.toNat + 4) n = (List.range n).map fun k => (entryAddr s desc k, entryLen s desc k) :=
  descPairs_eq s (desc.toNat + 4) n

theorem readAds_misaligned {s : State} {desc : Word} (h : desc.toNat % 4 ≠ 0) : s.readAds desc = .error .align :=
  if_pos h

theorem readAds_headOutside {s : State} {desc : Word} (ha : desc.toNat % 4 = 0) (h : ¬InMem (desc.toNat, 4)) :
    s.readAds desc = .error .addr := by
  have hill : legal desc.toNat 4 = false := by rwa [← Bool.not_eq_true, legal_iff]
  rw [State.readAds, if_neg (not_not.2 ha), hill]
  rfl

section List

variable {s : State} {desc : Word} (ha : desc.toNat % 4 = 0) (hhead : InMem (desc.toNat, 4))

include ha hhead

theorem readAds_pairsOutside (h : ¬InMem (desc.toNat + 4, 8 * (s.word desc.toNat).toNat)) :
    s.readAds desc = .error .addr := by
  have hill : legal (desc.toNat + 4) (8 * (s.word desc.toNat).toNat) = false := by rwa [← Bool.not_eq_true, legal_iff]
  unfold State.readAds
  dsimp only
  rw [if_neg (not_not.2 ha), (legal_iff _ _).2 hhead, hill]
  rfl

/-- A list whose head and pairs lie in MEM is read string by string. -/
theorem readAds_of_pairs (h : InMem (desc.toNat + 4, 8 * (s.word desc.toNat).toNat)) :
    s.readAds desc =
      if (s.descPairs (desc.toNat + 4) (s.word desc.toNat).toNat).all fun p => legal p.1 p.2 then
        .ok ((s.descPairs (desc.toNat + 4) (s.word desc.toNat).toNat).map fun p => s.readBytes p.1 p.2)
      else .error .addr := by
  have hpairs : legal (desc.toNat + 4) (8 * (s.word desc.toNat).toNat) = true := (legal_iff _ _).2 h
  unfold State.readAds
  dsimp only
  rw [if_neg (not_not.2 ha), (legal_iff _ _).2 hhead, hpairs]
  rfl

end List

/-- The head of a list in MEM whose pairs lie in MEM. -/
theorem inMem_head {a n : Nat} (h : InMem (a + 4, n)) : InMem (a, 4) := Nat.le_trans (Nat.le_add_right (a + 4) n) h

theorem readAds_stringOutside {s : State} {desc : Word} (ha : desc.toNat % 4 = 0)
    (h : InMem (desc.toNat + 4, 8 * (s.word desc.toNat).toNat))
    (hout : ∃ k, k < (s.word desc.toNat).toNat ∧ ¬InMem (entryAddr s desc k, entryLen s desc k)) :
    s.readAds desc = .error .addr := by
  obtain ⟨k, hk, hbad⟩ := hout
  rw [readAds_of_pairs ha (inMem_head h) h, descPairs_entries]
  refine if_neg fun hall => hbad ?_
  exact (legal_iff _ _).1 (List.all_eq_true.1 hall _ (List.mem_map_of_mem (List.mem_range.2 hk)))

theorem readAds_strings {s : State} {desc : Word} (ha : desc.toNat % 4 = 0)
    (h : InMem (desc.toNat + 4, 8 * (s.word desc.toNat).toNat))
    (hin : ∀ k, k < (s.word desc.toNat).toNat → InMem (entryAddr s desc k, entryLen s desc k)) :
    s.readAds desc = .ok ((List.range (s.word desc.toNat).toNat).map fun k =>
      s.readBytes (entryAddr s desc k) (entryLen s desc k)) := by
  rw [readAds_of_pairs ha (inMem_head h) h, descPairs_entries, List.map_map]
  refine if_pos (List.all_eq_true.2 fun p hp => ?_)
  obtain ⟨k, hk, rfl⟩ := List.mem_map.1 hp
  exact (legal_iff _ _).2 (hin k (List.mem_range.1 hk))

/-! ### The checks of the whole-message commands (R354, R355, R401, R402, R462) -/

theorem hasBoth_eq_false {s : State} (h : ¬BothKeys s) : s.keys.hasBoth = false := by
  rwa [← hasBoth_iff_bothKeys, Bool.not_eq_true] at h

/-- A plan that checks ranges, then the keys and the AD limit, and then answers INTEGRITY to a short input. -/
theorem checksInOrder_of_plan {i : Instr} {s : State} {ranges : List (Nat × Nat)} {strings : Nat} {short : Prop}
    {next : Plan} (hp : planOf i s = checked s ranges (keyed s strings next))
    (hshort : short → next = .stop .integrity s) : ChecksInOrder s (exec i s) ranges strings short := by
  refine ⟨fun hout => exec_of_plan_stop (hp.trans (checked_of_not_inMem hout _)), fun hin => ?_⟩
  rw [checked_of_inMem hin] at hp
  refine ⟨fun hk => ?noKey, fun hk hn => ?adLimit, fun hk hn hs => ?integrity⟩
  case noKey => exact exec_of_plan_stop (by rw [hp, keyed, hasBoth_eq_false hk]; rfl)
  case adLimit =>
    have hlim : Config.maxAd < strings := hn
    exact exec_of_plan_stop (by rw [hp, keyed, (hasBoth_iff_bothKeys s).2 hk, if_pos hlim]; rfl)
  case integrity => exact exec_of_plan_stop (by rw [hp, keyed_of_bothKeys hk hn, hshort hs])

/-- Settles O41: a list's check that fails first, and the plans of the four commands as checks in order. -/
theorem sivopenChecksInOrder : Obligations.SivopenChecksInOrder := by
  unfold Obligations.SivopenChecksInOrder
  refine ⟨fun desc s => ⟨word_toNat s, readAds_misaligned, fun ha => ⟨readAds_headOutside ha, ?_, fun h =>
    ⟨readAds_stringOutside ha h, readAds_strings ha h⟩⟩⟩, fun desc nonce nlen src len dst s hc => ⟨fun e he => ?_,
    fun ads hads => ?_⟩⟩
  · exact fun hhead h => readAds_pairsOutside ha hhead h
  · exact ⟨exec_of_plan_stop (by rw [planOf, planSivseal, gated_ok hc, he]),
      exec_of_plan_stop (by rw [planOf, planSivopen, gated_ok hc, he]),
      exec_of_plan_stop (by rw [planOf, planAeadseal, gated_ok hc, he]),
      exec_of_plan_stop (by rw [planOf, planAeadopen, gated_ok hc, he])⟩
  · exact ⟨checksInOrder_of_plan (planOf_sivseal hc hads src len dst) False.elim,
      checksInOrder_of_plan (planOf_sivopen hc hads src len dst) fun h => tagged_of_short s h _,
      checksInOrder_of_plan (planOf_aeadseal hc hads nonce nlen src len dst) False.elim,
      checksInOrder_of_plan (planOf_aeadopen hc hads nonce nlen src len dst) fun h => tagged_of_short s h _⟩

/-! ### STREAM (R421 to R426) -/

/-- A plan behind the checks of a chunk: the keys, the stream's state and direction, and the counter (R425, R426). -/
def streamed (s : State) (dir : Dir) (chunk : Chunk) (next : Plan) : Plan :=
  if !s.keys.hasBoth then .stop .noKey s
  else if !s.streamReady dir then .stop .chunkSequence s
  else if s.ctrExhausted chunk then .stop .counterOverflow s.endStream
  else next

theorem planOf_stseal {s : State} (hc : s.corrupt = false) (chunk : Chunk) (ad adlen src len dst : Word) :
    planOf (.stseal chunk ad adlen src len dst) s =
      checked s [(ad.toNat, adlen.toNat), (src.toNat, len.toNat), (dst.toNat, 16 + len.toNat)] (streamed s .enc chunk
        (.go (sealJob (s.chunkAds chunk ad adlen) (s.operand src len) dst.toNat (State.nextChunk chunk) s))) := by
  rw [planOf, planStseal, gated_ok hc]
  rfl

theorem planOf_stopen {s : State} (hc : s.corrupt = false) (chunk : Chunk) (ad adlen src len dst : Word) :
    planOf (.stopen chunk ad adlen src len dst) s =
      checked s [(ad.toNat, adlen.toNat), (src.toNat, len.toNat), (dst.toNat, openLen len.toNat)]
        (streamed s .dec chunk (tagged s len.toNat
          (.go (openJob (s.chunkAds chunk ad adlen) (s.operand src len) dst.toNat (State.nextChunk chunk) s)))) := by
  rw [planOf, planStopen, gated_ok hc]
  rfl

theorem streamReady_iff (s : State) (dir : Dir) :
    s.streamReady dir = true ↔ s.stream.state = .active ∧ s.stream.dir = dir := by simp [State.streamReady]

theorem ctrExhausted_iff (s : State) (chunk : Chunk) :
    s.ctrExhausted chunk = true ↔ chunk = .more ∧ s.stream.ctr = 0xFFFFFFFF#32 := by simp [State.ctrExhausted]

theorem chunkAds_eq (s : State) (chunk : Chunk) (ad adlen : Word) :
    s.chunkAds chunk ad adlen = chunkStrings s chunk ad adlen := by cases chunk <;> rfl

theorem nextChunk_eq (chunk : Chunk) (u : State) :
    State.nextChunk chunk u = { u with stream := streamAfter chunk u.stream } := by cases chunk <;> rfl

section Streamed

variable {s : State} {dir : Dir} {chunk : Chunk} (next : Plan)

theorem streamed_noKey (h : ¬BothKeys s) : streamed s dir chunk next = .stop .noKey s := by
  rw [streamed, hasBoth_eq_false h]
  rfl

theorem streamed_chunkSequence (hk : BothKeys s) (h : ¬(s.stream.state = .active ∧ s.stream.dir = dir)) :
    streamed s dir chunk next = .stop .chunkSequence s := by
  have hnot : s.streamReady dir = false := by rwa [← Bool.not_eq_true, streamReady_iff]
  rw [streamed, (hasBoth_iff_bothKeys s).2 hk, hnot]
  rfl

theorem streamed_counterOverflow (hk : BothKeys s) (h : s.stream.state = .active ∧ s.stream.dir = dir)
    (hmore : chunk = .more) (hctr : s.stream.ctr = 0xFFFFFFFF#32) :
    streamed s dir chunk next = .stop .counterOverflow s.endStream := by
  rw [streamed, (hasBoth_iff_bothKeys s).2 hk, (streamReady_iff s dir).2 h, (ctrExhausted_iff s chunk).2 ⟨hmore, hctr⟩]
  rfl

theorem streamed_ready (hk : BothKeys s) (h : s.stream.state = .active ∧ s.stream.dir = dir)
    (hctr : chunk = .more → s.stream.ctr ≠ 0xFFFFFFFF#32) : streamed s dir chunk next = next := by
  have hnot : s.ctrExhausted chunk = false := by
    rw [← Bool.not_eq_true, ctrExhausted_iff]
    exact fun ⟨hmore, hlast⟩ => hctr hmore hlast
  rw [streamed, (hasBoth_iff_bothKeys s).2 hk, (streamReady_iff s dir).2 h, hnot]
  rfl

end Streamed

/-- Settles O46: past its checks STSEAL is one sealing job that moves the stream on. -/
theorem stsealSealsChunk : Obligations.StsealSealsChunk := by
  unfold Obligations.StsealSealsChunk
  intro chunk ad adlen src len dst s hc had hsrc hdst hk hact hdir hctr hg
  refine stored_of_sealJob (i := .stseal chunk ad adlen src len dst) (nextChunk_eq chunk) ?_ hdst hg
  rw [planOf_stseal hc, checked_of_inMem (by simp [InMem, had, hsrc, hdst]), streamed_ready _ hk ⟨hact, hdir⟩ hctr,
    chunkAds_eq]

/-- Settles O47: past its checks STOPEN is one opening job that moves the stream on where the tags agree. -/
theorem stopenOpensChunk : Obligations.StopenOpensChunk := by
  unfold Obligations.StopenOpensChunk
  intro chunk ad adlen src len dst s hc had hsrc hlen hdst hk hact hdir hctr all hg
  refine stored_of_openJob (i := .stopen chunk ad adlen src len dst) (nextChunk_eq chunk) ?_ hlen hdst hg
  rw [planOf_stopen hc, openLen_of_tagged hlen, checked_of_inMem (by simp [InMem, had, hsrc, hdst]),
    streamed_ready _ hk ⟨hact, hdir⟩ hctr, tagged_of_le s hlen, chunkAds_eq]

theorem not_ready_of_other {s : State} {dir other : Dir} (hne : other ≠ dir)
    (h : s.stream.state ≠ .active ∨ s.stream.dir = other) : ¬(s.stream.state = .active ∧ s.stream.dir = dir) := by
  rintro ⟨hact, hdir⟩
  rcases h with h | h
  · exact h hact
  · exact hne (h.symm.trans hdir)

/-- A plan that checks ranges and then a chunk answers the first check that fails. -/
theorem chunkChecks_of_plan {i : Instr} {s : State} {ranges : List (Nat × Nat)} {dir other : Dir} {chunk : Chunk}
    {next : Plan} (hp : planOf i s = checked s ranges (streamed s dir chunk next)) (hne : other ≠ dir) :
    ((∃ r ∈ ranges, ¬InMem r) → exec i s = .next (s.trap .addr)) ∧
    ((∀ r ∈ ranges, InMem r) →
      (¬BothKeys s → exec i s = .next (s.trap .noKey)) ∧
      (BothKeys s →
        (s.stream.state ≠ .active ∨ s.stream.dir = other → exec i s = .next (s.trap .chunkSequence)) ∧
        (s.stream.state = .active → s.stream.dir = dir → chunk = .more → s.stream.ctr = 0xFFFFFFFF#32 →
          exec i s = .next (s.endStream.trap .counterOverflow)))) := by
  refine ⟨fun hout => exec_of_plan_stop (hp.trans (checked_of_not_inMem hout _)), fun hin => ?_⟩
  rw [checked_of_inMem hin] at hp
  refine ⟨fun hk => ?noKey, fun hk => ⟨fun h => ?sequence, fun ha hd hm hctr => ?overflow⟩⟩
  case noKey => exact exec_of_plan_stop (hp.trans (streamed_noKey _ hk))
  case sequence => exact exec_of_plan_stop (hp.trans (streamed_chunkSequence _ hk (not_ready_of_other hne h)))
  case overflow => exact exec_of_plan_stop (hp.trans (streamed_counterOverflow _ hk ⟨ha, hd⟩ hm hctr))

/-- Settles O48: both plans check ranges and then a chunk, and STOPEN's the input's length after them. -/
theorem streamRefusesChunks : Obligations.StreamRefusesChunks := by
  unfold Obligations.StreamRefusesChunks
  intro chunk ad adlen src len dst s hc m input seals opens overflow
  have hplan := planOf_stopen hc chunk ad adlen src len dst
  obtain ⟨hsealAddr, hsealIn⟩ := chunkChecks_of_plan (other := .dec) (planOf_stseal hc chunk ad adlen src len dst)
    (by decide)
  obtain ⟨hopenAddr, hopenIn⟩ := chunkChecks_of_plan (other := .enc) hplan (by decide)
  refine ⟨hsealAddr, hopenAddr, hsealIn, fun hin => ?_⟩
  obtain ⟨hnoKey, hkeys⟩ := hopenIn hin
  refine ⟨hnoKey, fun hk => ⟨(hkeys hk).1, (hkeys hk).2, fun ha hd hctr hshort => ?_⟩⟩
  exact exec_of_plan_stop (hplan.trans ((checked_of_inMem hin _).trans
    ((streamed_ready _ hk ⟨ha, hd⟩ hctr).trans (tagged_of_short s hshort _))))

end Sys2Proof.Machine
